-- ==== Sys2Proof/Word.lean ====
section
/-! DEFINITION. The word types of the machine (00_scope.md R6, 30_encoding.md R47). -/

namespace Sys2Proof

/-- A byte: a general register, a memory cell, a timer, an immediate `kk`. -/
abbrev Byte := BitVec 8

/-- A nibble: a register index `x` or `y`, a sprite height `n`, a key index (R47). -/
abbrev Nibble := BitVec 4

/-- A 12-bit address field `nnn` (R47). -/
abbrev Addr12 := BitVec 12

/-- A 16-bit value: the opcode, I, pc, a stack entry. -/
abbrev Word := BitVec 16

end Sys2Proof
end

