-- ==== Sys2Proof/Syntax.lean ====
section
/-! DEFINITION. The instructions: one constructor per row of spec/opcode_table.json, in the table's order
(30_encoding.md R50). Each field has exactly the width its encoding gives it (R47, R48). -/

namespace Sys2Proof

/-- The 34 instructions (R50). -/
inductive Instr where
  /-- 0x00E0 `CLS` -/
  | cls
  /-- 0x00EE `RET` -/
  | ret
  /-- 0x1nnn `JP nnn` -/
  | jp (nnn : Addr12)
  /-- 0x2nnn `CALL nnn` -/
  | call (nnn : Addr12)
  /-- 0x3xkk `SE Vx, kk` -/
  | seImm (x : Nibble) (kk : Byte)
  /-- 0x4xkk `SNE Vx, kk` -/
  | sneImm (x : Nibble) (kk : Byte)
  /-- 0x5xy0 `SE Vx, Vy` -/
  | seReg (x y : Nibble)
  /-- 0x6xkk `LD Vx, kk` -/
  | ldImm (x : Nibble) (kk : Byte)
  /-- 0x7xkk `ADD Vx, kk` -/
  | addImm (x : Nibble) (kk : Byte)
  /-- 0x8xy0 `LD Vx, Vy` -/
  | ldReg (x y : Nibble)
  /-- 0x8xy1 `OR Vx, Vy` -/
  | orReg (x y : Nibble)
  /-- 0x8xy2 `AND Vx, Vy` -/
  | andReg (x y : Nibble)
  /-- 0x8xy3 `XOR Vx, Vy` -/
  | xorReg (x y : Nibble)
  /-- 0x8xy4 `ADD Vx, Vy` -/
  | addReg (x y : Nibble)
  /-- 0x8xy5 `SUB Vx, Vy` -/
  | subReg (x y : Nibble)
  /-- 0x8xy6 `SHR Vx {, Vy}` -/
  | shr (x y : Nibble)
  /-- 0x8xy7 `SUBN Vx, Vy` -/
  | subnReg (x y : Nibble)
  /-- 0x8xyE `SHL Vx {, Vy}` -/
  | shl (x y : Nibble)
  /-- 0x9xy0 `SNE Vx, Vy` -/
  | sneReg (x y : Nibble)
  /-- 0xAnnn `LD I, nnn` -/
  | ldI (nnn : Addr12)
  /-- 0xBnnn `JP V0, nnn` -/
  | jpV0 (nnn : Addr12)
  /-- 0xCxkk `RND Vx, kk` -/
  | rnd (x : Nibble) (kk : Byte)
  /-- 0xDxyn `DRW Vx, Vy, n` -/
  | drw (x y n : Nibble)
  /-- 0xEx9E `SKP Vx` -/
  | skp (x : Nibble)
  /-- 0xExA1 `SKNP Vx` -/
  | sknp (x : Nibble)
  /-- 0xFx07 `LD Vx, DT` -/
  | ldVxDt (x : Nibble)
  /-- 0xFx0A `LD Vx, K` -/
  | ldVxK (x : Nibble)
  /-- 0xFx15 `LD DT, Vx` -/
  | ldDtVx (x : Nibble)
  /-- 0xFx18 `LD ST, Vx` -/
  | ldStVx (x : Nibble)
  /-- 0xFx1E `ADD I, Vx` -/
  | addI (x : Nibble)
  /-- 0xFx29 `LD F, Vx` -/
  | ldF (x : Nibble)
  /-- 0xFx33 `LD B, Vx` -/
  | ldB (x : Nibble)
  /-- 0xFx55 `LD [I], Vx` -/
  | ldMemVx (x : Nibble)
  /-- 0xFx65 `LD Vx, [I]` -/
  | ldVxMem (x : Nibble)
deriving DecidableEq, Repr

end Sys2Proof
end

