-- ==== Sys2Proof/WellFormed.lean ====
section
/-! DEFINITION. What is well formed. Every field of `Instr` has exactly the width its encoding gives it and the spec
forbids no value of any field (30_encoding.md R49: "any of the 16 indices is legal in either field"), so every term of
`Instr` is well formed and there is no check on instructions. The check the spec does give is on WORDS: a word is legal
iff it matches a row of the opcode map (R50, R53). The map below is that table, as masks and matches. -/

namespace Sys2Proof

/-- A row of the opcode map R50: a word `op` is this instruction iff `op AND mask = bits`. -/
structure Row where
  mnemonic : String
  mask : Word
  bits : Word
deriving DecidableEq, Repr

/-- The word matches the row (R50). -/
def Row.matches (r : Row) (op : Word) : Bool :=
  op &&& r.mask == r.bits

/-- Rows 1 to 10 of the opcode map R50. -/
def opcodeMapLow : List Row :=
  [ ⟨"CLS", 0xFFFF, 0x00E0⟩,
    ⟨"RET", 0xFFFF, 0x00EE⟩,
    ⟨"JP_nnn", 0xF000, 0x1000⟩,
    ⟨"CALL_nnn", 0xF000, 0x2000⟩,
    ⟨"SE_Vx__kk", 0xF000, 0x3000⟩,
    ⟨"SNE_Vx__kk", 0xF000, 0x4000⟩,
    ⟨"SE_Vx__Vy", 0xF00F, 0x5000⟩,
    ⟨"LD_Vx__kk", 0xF000, 0x6000⟩,
    ⟨"ADD_Vx__kk", 0xF000, 0x7000⟩,
    ⟨"LD_Vx__Vy", 0xF00F, 0x8000⟩ ]

/-- Rows 11 to 22 of the opcode map R50. -/
def opcodeMapMid : List Row :=
  [ ⟨"OR_Vx__Vy", 0xF00F, 0x8001⟩,
    ⟨"AND_Vx__Vy", 0xF00F, 0x8002⟩,
    ⟨"XOR_Vx__Vy", 0xF00F, 0x8003⟩,
    ⟨"ADD_Vx__Vy", 0xF00F, 0x8004⟩,
    ⟨"SUB_Vx__Vy", 0xF00F, 0x8005⟩,
    ⟨"SHR_Vx____Vy", 0xF00F, 0x8006⟩,
    ⟨"SUBN_Vx__Vy", 0xF00F, 0x8007⟩,
    ⟨"SHL_Vx____Vy", 0xF00F, 0x800E⟩,
    ⟨"SNE_Vx__Vy", 0xF00F, 0x9000⟩,
    ⟨"LD_I__nnn", 0xF000, 0xA000⟩,
    ⟨"JP_V0__nnn", 0xF000, 0xB000⟩,
    ⟨"RND_Vx__kk", 0xF000, 0xC000⟩ ]

/-- Rows 23 to 34 of the opcode map R50. -/
def opcodeMapHigh : List Row :=
  [ ⟨"DRW_Vx__Vy__n", 0xF000, 0xD000⟩,
    ⟨"SKP_Vx", 0xF0FF, 0xE09E⟩,
    ⟨"SKNP_Vx", 0xF0FF, 0xE0A1⟩,
    ⟨"LD_Vx__DT", 0xF0FF, 0xF007⟩,
    ⟨"LD_Vx__K", 0xF0FF, 0xF00A⟩,
    ⟨"LD_DT__Vx", 0xF0FF, 0xF015⟩,
    ⟨"LD_ST__Vx", 0xF0FF, 0xF018⟩,
    ⟨"ADD_I__Vx", 0xF0FF, 0xF01E⟩,
    ⟨"LD_F__Vx", 0xF0FF, 0xF029⟩,
    ⟨"LD_B__Vx", 0xF0FF, 0xF033⟩,
    ⟨"LD__I___Vx", 0xF0FF, 0xF055⟩,
    ⟨"LD_Vx___I", 0xF0FF, 0xF065⟩ ]

/-- The opcode map R50: 34 rows, pairwise disjoint. -/
def opcodeMap : List Row :=
  opcodeMapLow ++ opcodeMapMid ++ opcodeMapHigh

/-- A word is legal iff it matches a row of the opcode map (R53). -/
def legalWord (op : Word) : Bool :=
  opcodeMap.any (fun r => r.matches op)

/-- The row of the opcode map an instruction belongs to (R50). -/
def Instr.row : Instr → Row
  | .cls => ⟨"CLS", 0xFFFF, 0x00E0⟩
  | .ret => ⟨"RET", 0xFFFF, 0x00EE⟩
  | .jp _ => ⟨"JP_nnn", 0xF000, 0x1000⟩
  | .call _ => ⟨"CALL_nnn", 0xF000, 0x2000⟩
  | .seImm _ _ => ⟨"SE_Vx__kk", 0xF000, 0x3000⟩
  | .sneImm _ _ => ⟨"SNE_Vx__kk", 0xF000, 0x4000⟩
  | .seReg _ _ => ⟨"SE_Vx__Vy", 0xF00F, 0x5000⟩
  | .ldImm _ _ => ⟨"LD_Vx__kk", 0xF000, 0x6000⟩
  | .addImm _ _ => ⟨"ADD_Vx__kk", 0xF000, 0x7000⟩
  | .ldReg _ _ => ⟨"LD_Vx__Vy", 0xF00F, 0x8000⟩
  | .orReg _ _ => ⟨"OR_Vx__Vy", 0xF00F, 0x8001⟩
  | .andReg _ _ => ⟨"AND_Vx__Vy", 0xF00F, 0x8002⟩
  | .xorReg _ _ => ⟨"XOR_Vx__Vy", 0xF00F, 0x8003⟩
  | .addReg _ _ => ⟨"ADD_Vx__Vy", 0xF00F, 0x8004⟩
  | .subReg _ _ => ⟨"SUB_Vx__Vy", 0xF00F, 0x8005⟩
  | .shr _ _ => ⟨"SHR_Vx____Vy", 0xF00F, 0x8006⟩
  | .subnReg _ _ => ⟨"SUBN_Vx__Vy", 0xF00F, 0x8007⟩
  | .shl _ _ => ⟨"SHL_Vx____Vy", 0xF00F, 0x800E⟩
  | .sneReg _ _ => ⟨"SNE_Vx__Vy", 0xF00F, 0x9000⟩
  | .ldI _ => ⟨"LD_I__nnn", 0xF000, 0xA000⟩
  | .jpV0 _ => ⟨"JP_V0__nnn", 0xF000, 0xB000⟩
  | .rnd _ _ => ⟨"RND_Vx__kk", 0xF000, 0xC000⟩
  | .drw _ _ _ => ⟨"DRW_Vx__Vy__n", 0xF000, 0xD000⟩
  | .skp _ => ⟨"SKP_Vx", 0xF0FF, 0xE09E⟩
  | .sknp _ => ⟨"SKNP_Vx", 0xF0FF, 0xE0A1⟩
  | .ldVxDt _ => ⟨"LD_Vx__DT", 0xF0FF, 0xF007⟩
  | .ldVxK _ => ⟨"LD_Vx__K", 0xF0FF, 0xF00A⟩
  | .ldDtVx _ => ⟨"LD_DT__Vx", 0xF0FF, 0xF015⟩
  | .ldStVx _ => ⟨"LD_ST__Vx", 0xF0FF, 0xF018⟩
  | .addI _ => ⟨"ADD_I__Vx", 0xF0FF, 0xF01E⟩
  | .ldF _ => ⟨"LD_F__Vx", 0xF0FF, 0xF029⟩
  | .ldB _ => ⟨"LD_B__Vx", 0xF0FF, 0xF033⟩
  | .ldMemVx _ => ⟨"LD__I___Vx", 0xF0FF, 0xF055⟩
  | .ldVxMem _ => ⟨"LD_Vx___I", 0xF0FF, 0xF065⟩

end Sys2Proof
end

