-- ==== Sys2Proof/Decode.lean ====
section
/-! DEFINITION. The decoder, total on all 65536 words and on any bytes (30_encoding.md R46 to R53), and after it the
encoder. Every word is one instruction or is rejected by name. -/

namespace Sys2Proof

/-- Why a decoder rejects. -/
inductive Reject where
  /-- The word matches no row of R50 (R53). The tick then faults with `illegalOpcode`: safe. -/
  | illegalOpcode (op : Word)
  /-- Fewer than two bytes are left. Only a caller with a byte list of its own sees it, the fetch always has two: safe. -/
  | truncated
deriving DecidableEq, Repr

/-! ## Fields (R47) -/

/-- `n3` = op[15:12], the family selector. -/
def fieldN3 (op : Word) : Nibble := op.extractLsb' 12 4

/-- `x` = op[11:8]. -/
def fieldX (op : Word) : Nibble := op.extractLsb' 8 4

/-- `y` = op[7:4]. -/
def fieldY (op : Word) : Nibble := op.extractLsb' 4 4

/-- `n` = op[3:0]. -/
def fieldN (op : Word) : Nibble := op.extractLsb' 0 4

/-- `kk` = op[7:0]. -/
def fieldKK (op : Word) : Byte := op.extractLsb' 0 8

/-- `nnn` = op[11:0]. -/
def fieldNNN (op : Word) : Addr12 := op.extractLsb' 0 12

/-- Big-endian: the byte at the lower address holds bits 15:8 (20_memory.md R34). -/
def wordOfBytes (hi lo : Byte) : Word := hi ++ lo

/-! ## Decode (R52) -/

/-- Family 0: the whole word is fixed. -/
def decodeFamily0 (op : Word) : Except Reject Instr :=
  if op = 0x00E0 then .ok .cls
  else if op = 0x00EE then .ok .ret
  else .error (.illegalOpcode op)

/-- Family 8: the low nibble selects the operation (R51). -/
def decodeFamily8 (op : Word) : Except Reject Instr :=
  match (fieldN op).toNat with
  | 0x0 => .ok (.ldReg (fieldX op) (fieldY op))
  | 0x1 => .ok (.orReg (fieldX op) (fieldY op))
  | 0x2 => .ok (.andReg (fieldX op) (fieldY op))
  | 0x3 => .ok (.xorReg (fieldX op) (fieldY op))
  | 0x4 => .ok (.addReg (fieldX op) (fieldY op))
  | 0x5 => .ok (.subReg (fieldX op) (fieldY op))
  | 0x6 => .ok (.shr (fieldX op) (fieldY op))
  | 0x7 => .ok (.subnReg (fieldX op) (fieldY op))
  | 0xE => .ok (.shl (fieldX op) (fieldY op))
  | _ => .error (.illegalOpcode op)

/-- Family E: the low byte selects the key test. -/
def decodeFamilyE (op : Word) : Except Reject Instr :=
  if fieldKK op = 0x9E then .ok (.skp (fieldX op))
  else if fieldKK op = 0xA1 then .ok (.sknp (fieldX op))
  else .error (.illegalOpcode op)

/-- Family F: the low byte is a function code. -/
def decodeFamilyF (op : Word) : Except Reject Instr :=
  match (fieldKK op).toNat with
  | 0x07 => .ok (.ldVxDt (fieldX op))
  | 0x0A => .ok (.ldVxK (fieldX op))
  | 0x15 => .ok (.ldDtVx (fieldX op))
  | 0x18 => .ok (.ldStVx (fieldX op))
  | 0x1E => .ok (.addI (fieldX op))
  | 0x29 => .ok (.ldF (fieldX op))
  | 0x33 => .ok (.ldB (fieldX op))
  | 0x55 => .ok (.ldMemVx (fieldX op))
  | 0x65 => .ok (.ldVxMem (fieldX op))
  | _ => .error (.illegalOpcode op)

/-- R52: `decode(op)`. The last arm is family F, the only value of a nibble the arms before it leave. -/
def decode (op : Word) : Except Reject Instr :=
  match (fieldN3 op).toNat with
  | 0x0 => decodeFamily0 op
  | 0x1 => .ok (.jp (fieldNNN op))
  | 0x2 => .ok (.call (fieldNNN op))
  | 0x3 => .ok (.seImm (fieldX op) (fieldKK op))
  | 0x4 => .ok (.sneImm (fieldX op) (fieldKK op))
  | 0x5 => if fieldN op = 0 then .ok (.seReg (fieldX op) (fieldY op)) else .error (.illegalOpcode op)
  | 0x6 => .ok (.ldImm (fieldX op) (fieldKK op))
  | 0x7 => .ok (.addImm (fieldX op) (fieldKK op))
  | 0x8 => decodeFamily8 op
  | 0x9 => if fieldN op = 0 then .ok (.sneReg (fieldX op) (fieldY op)) else .error (.illegalOpcode op)
  | 0xA => .ok (.ldI (fieldNNN op))
  | 0xB => .ok (.jpV0 (fieldNNN op))
  | 0xC => .ok (.rnd (fieldX op) (fieldKK op))
  | 0xD => .ok (.drw (fieldX op) (fieldY op) (fieldN op))
  | 0xE => decodeFamilyE op
  | _ => decodeFamilyF op

/-- The decoder on bytes as they lie in memory: one instruction and the bytes after it (R34, R46). -/
def decodeBytes : List Byte → Except Reject (Instr × List Byte)
  | hi :: lo :: rest =>
    match decode (wordOfBytes hi lo) with
    | .ok i => .ok (i, rest)
    | .error r => .error r
  | _ => .error .truncated

/-! ## Encode (R48, R50) -/

/-- Format NNN: `n3` and a 12-bit address. -/
def wordNNN (n3 : Nibble) (nnn : Addr12) : Word := n3 ++ nnn

/-- Formats XKK and XF: `n3`, `x` and a byte. -/
def wordXKK (n3 x : Nibble) (kk : Byte) : Word := n3 ++ x ++ kk

/-- Formats XY and XYN: `n3`, `x`, `y` and a nibble. -/
def wordXYN (n3 x y n : Nibble) : Word := n3 ++ x ++ y ++ n

/-- The word of an instruction, from the patterns of R50. -/
def encode : Instr → Word
  | .cls => 0x00E0
  | .ret => 0x00EE
  | .jp nnn => wordNNN 0x1 nnn
  | .call nnn => wordNNN 0x2 nnn
  | .seImm x kk => wordXKK 0x3 x kk
  | .sneImm x kk => wordXKK 0x4 x kk
  | .seReg x y => wordXYN 0x5 x y 0x0
  | .ldImm x kk => wordXKK 0x6 x kk
  | .addImm x kk => wordXKK 0x7 x kk
  | .ldReg x y => wordXYN 0x8 x y 0x0
  | .orReg x y => wordXYN 0x8 x y 0x1
  | .andReg x y => wordXYN 0x8 x y 0x2
  | .xorReg x y => wordXYN 0x8 x y 0x3
  | .addReg x y => wordXYN 0x8 x y 0x4
  | .subReg x y => wordXYN 0x8 x y 0x5
  | .shr x y => wordXYN 0x8 x y 0x6
  | .subnReg x y => wordXYN 0x8 x y 0x7
  | .shl x y => wordXYN 0x8 x y 0xE
  | .sneReg x y => wordXYN 0x9 x y 0x0
  | .ldI nnn => wordNNN 0xA nnn
  | .jpV0 nnn => wordNNN 0xB nnn
  | .rnd x kk => wordXKK 0xC x kk
  | .drw x y n => wordXYN 0xD x y n
  | .skp x => wordXKK 0xE x 0x9E
  | .sknp x => wordXKK 0xE x 0xA1
  | .ldVxDt x => wordXKK 0xF x 0x07
  | .ldVxK x => wordXKK 0xF x 0x0A
  | .ldDtVx x => wordXKK 0xF x 0x15
  | .ldStVx x => wordXKK 0xF x 0x18
  | .addI x => wordXKK 0xF x 0x1E
  | .ldF x => wordXKK 0xF x 0x29
  | .ldB x => wordXKK 0xF x 0x33
  | .ldMemVx x => wordXKK 0xF x 0x55
  | .ldVxMem x => wordXKK 0xF x 0x65

/-- The bytes of a word as the hardware stores them: high byte at the lower address (R34). -/
def bytesOfWord (op : Word) : List Byte :=
  [op.extractLsb' 8 8, op.extractLsb' 0 8]

/-- The host's question: the instruction the decoder reads from a word numbered as spec/opcode_table.json numbers it
(one 16-bit word, bit 0 its least significant), laid out big-endian; bits above `nbits` are 0. -/
def decodeTableWord (nbits w : Nat) : Option Instr :=
  match decodeBytes (bytesOfWord (BitVec.ofNat 16 (w % 2 ^ nbits))) with
  | .ok (i, _) => some i
  | .error _ => none

end Sys2Proof
end

