-- ==== Sys2Proof/Config.lean ====
section
/-! DEFINITION. What is fixed for the machine (00_scope.md R5): the fixed sizes, the types of the parameters the spec
leaves open, and the one free value. The VALUES of the font's parameters stand in Machine/Params.lean; the open one,
`SHIFT_SRC`, is an argument each state carries. -/

namespace Sys2Proof.Config

/-- `MEM_SIZE`: addresses 0x000 to 0xFFF (R5). -/
abbrev memSize : Nat := 4096

/-- `PROG_BASE`: where an image is loaded and where pc starts (R5). -/
abbrev progBase : Nat := 0x200

/-- `IMAGE_MAX` = 4096 - 0x200 (R5). -/
abbrev imageMax : Nat := 3584

/-- `STACK_DEPTH` (R5). -/
abbrev stackDepth : Nat := 16

/-- `GLYPH_SIZE`: bytes of one glyph (R5). -/
abbrev glyphSize : Nat := 5

/-- The values `SHIFT_SRC` can take (R5, decision D13): which register 0x8xy6 and 0x8xyE shift. -/
inductive ShiftSrc where
  | vx
  | vy
deriving DecidableEq, Repr

/-- The free value of the machine: the k-th byte the host draws for a `RND` whose `tick` names no draw. It has no
body, so nothing can be proved of it (R95: "under no law"; U20; log 2). -/
opaque rnd : Nat → Byte

end Sys2Proof.Config
end

