-- ==== Sys2Proof/Machine/Params.lean ====
section
/-! DEFINITION. The values this model gives the parameters of the font (00_scope.md R5). The one
parameter that is open, `SHIFT_SRC`, is an argument of the machine: a field of State. -/

namespace Sys2Proof.Machine

/-- `FONT_BASE` = 0x000 (10_state.md R16). DESIGN CHOICE, the spec's decision D6 (log 8): unsafe. -/
def fontBase : Nat := 0x000

/-- The bytes of glyphs 0 to 7 (10_state.md R17). PRESUMED, the family's font, D7 and U3 (log 9): unsafe. -/
def fontLow : List Byte :=
  [ 0xF0, 0x90, 0x90, 0x90, 0xF0,
    0x20, 0x60, 0x20, 0x20, 0x70,
    0xF0, 0x10, 0xF0, 0x80, 0xF0,
    0xF0, 0x10, 0xF0, 0x10, 0xF0,
    0x90, 0x90, 0xF0, 0x10, 0x10,
    0xF0, 0x80, 0xF0, 0x10, 0xF0,
    0xF0, 0x80, 0xF0, 0x90, 0xF0,
    0xF0, 0x10, 0x20, 0x40, 0x40 ]

/-- The bytes of glyphs 8 to F (10_state.md R17). PRESUMED as `fontLow` (log 9): unsafe. -/
def fontHigh : List Byte :=
  [ 0xF0, 0x90, 0xF0, 0x90, 0xF0,
    0xF0, 0x90, 0xF0, 0x10, 0xF0,
    0xF0, 0x90, 0xF0, 0x90, 0x90,
    0xE0, 0x90, 0xE0, 0x90, 0xE0,
    0xF0, 0x80, 0x80, 0x80, 0xF0,
    0xE0, 0x90, 0x90, 0x90, 0xE0,
    0xF0, 0x80, 0xF0, 0x80, 0xF0,
    0xF0, 0x80, 0xF0, 0x80, 0x80 ]

/-- `FONT_DATA`: 16 glyphs of 5 bytes (10_state.md R16, R17). -/
def fontData : List Byte := fontLow ++ fontHigh

end Sys2Proof.Machine
end

