-- ==== Sys2Proof/Machine/Memory.lean ====
section
/-! DEFINITION. The memory (10_state.md R15): a list of (address, byte) cells in one canonical form. An address that is
not listed reads as its reset contents (R26: the font bytes, 0 elsewhere; log 10). The bound 4096 is checked where the
machine makes an access (Machine/Ops.lean), not here. -/

namespace Sys2Proof.Machine

/-- The memory as data: the cells that differ from the reset contents. -/
abbrev Memory := List Host.Cell

/-- What a byte holds after reset (R26, R160): FONT_DATA from FONT_BASE on, 0x00 everywhere else. -/
def resetByte (a : Nat) : Byte :=
  if a < fontBase then 0 else fontData.getD (a - fontBase) 0

/-- The byte at an address. -/
def Memory.read : Memory → Nat → Byte
  | [], a => resetByte a
  | (b, w) :: rest, a => if a = b then w else Memory.read rest a

/-- List a cell at its place in the order of addresses, in place of an older cell of that address. -/
def Memory.insert : Memory → Nat → Byte → Memory
  | [], a, v => [(a, v)]
  | (b, w) :: rest, a, v =>
    if a < b then (a, v) :: (b, w) :: rest
    else if a = b then (a, v) :: rest
    else (b, w) :: Memory.insert rest a v

/-- Store a byte. Writing what an unlisted address reads as removes the cell, so equal memories are equal data. -/
def Memory.write (m : Memory) (a : Nat) (v : Byte) : Memory :=
  if v = resetByte a then m.filter (fun c => c.1 != a) else Memory.insert m a v

/-- The canonical form: addresses strictly rising, all inside the address space, no cell equal to what an unlisted
address reads as. -/
abbrev Memory.wf (m : Memory) : Prop :=
  m.Pairwise (fun c d => c.1 < d.1) ∧ ∀ c ∈ m, c.1 < Config.memSize ∧ c.2 ≠ resetByte c.1

end Sys2Proof.Machine
end

