-- ==== Sys2Proof/Machine/State.lean ====
section
/-! DEFINITION. The state of the machine, the faults and the refusals (10_state.md R10 to R27). -/

namespace Sys2Proof.Machine

/-- The wait-for-key sub-state (R24). -/
inductive Wait where
  | running
  | awaitingKey (x : Nibble)
deriving DecidableEq, Repr

/-- The display: 32 rows of 64 cells, `disp[y][x]` (R19). -/
abbrev Display := Vector (Vector Bool 64) 32

/-- The six operations by which the host acts on the core (00_scope.md R9). -/
inductive HostOp where
  /-- `reset()`, R160. -/
  | reset
  /-- `load(image)`, R163. -/
  | load (image : List Byte)
  /-- `tick(rnd)`, R60. -/
  | tick (rnd : Byte)
  /-- `tick_timers()`, R145. -/
  | tickTimers
  /-- `keypress(k, pressed)`, R148. -/
  | keypress (k : Nibble) (pressed : Bool)
  /-- `read_display()`, R151. -/
  | readDisplay
deriving DecidableEq, Repr

/-- The state: the spec's tuple, in its order, and after it four fields of the MODEL's own: three of the host's
input and the open parameter. -/
structure State where
  /-- The 4096 bytes (R15), as the cells that differ from the reset contents. -/
  mem : Memory
  /-- V0 to VF (R10). -/
  v : Vector Byte 16
  /-- The index register I (R12). -/
  i : Word
  /-- The program counter (R13). -/
  pc : Word
  /-- The stack pointer: how many entries are live, 0 to 16 (R14). -/
  sp : Byte
  /-- The return stack (R14). -/
  stack : Vector Word 16
  /-- The delay timer (R18). -/
  dt : Byte
  /-- The sound timer (R18). -/
  st : Byte
  /-- The display bitmap (R19). -/
  disp : Display
  /-- The 16 key states (R20). -/
  keys : Vector Bool 16
  /-- The wait-for-key sub-state (R24). -/
  wait : Wait
  /-- The key latch (R25). -/
  keyLatch : Option Nibble
  /-- The model's own: the calls the host still makes, oldest first; when there is none it ticks (log 3). -/
  host : List HostOp
  /-- The model's own: the draw of the tick being performed where the host names it, none where it is free (log 2). -/
  rnd : Option Byte
  /-- The model's own: how many free draws have been used (log 2). -/
  draws : Nat
  /-- The model's own: the open parameter `SHIFT_SRC`, the argument the machine is run with (R5, R22, D13; log 7). The two
  shifts read it and nothing writes it. -/
  shiftSrc : Config.ShiftSrc
deriving DecidableEq, Repr

/-- The error kinds (60_exceptions.md R130). Each is the value the failing operation returns to the host; the state
after it is `afterError` (R131). Ending the run there is the conservative reading the spec recommends (U1): safe. -/
inductive Fault where
  /-- Raised by the fetch when pc >= 4095 (R61): safe. -/
  | programCounterOutOfRange (pc : Word)
  /-- Raised by the Execute step for a word that matches no instruction (R64): safe. -/
  | illegalOpcode (op : Word)
  /-- Raised by CALL when SP = 16 (R73): safe. -/
  | stackOverflow
  /-- Raised by RET when SP = 0 (R71): safe. -/
  | stackUnderflow
  /-- Raised by DRW, LD B, LD [I],Vx, LD Vx,[I] for a range that passes 4095; the lowest address out of range (R107): safe. -/
  | memoryOutOfRange (addr : Nat)
  /-- Raised by `load` for an image of more than 3584 bytes (R164): safe. -/
  | imageTooLarge (len : Nat)
  /-- Raised by CALL and RET in a state with SP above 16, which no run reaches (R14, R23; log 5): safe. -/
  | stackPointerOutOfRange (sp : Byte)
deriving DecidableEq, Repr

/-- What the model gives no step to. -/
inductive Refusal where
  /-- An arm of exec without a meaning: safe. No arm is refused in this model. -/
  | notModelled (mnemonic : String)
  /-- A host call `load` at another moment than directly after reset, for which "a model has no move" (R166, U9; log 4): safe. -/
  | loadOutsideLaunch
deriving DecidableEq, Repr

/-- The state right after reset, which is the power-on state (R26, R162). The fields of the model's own have
values of the model's choice (log 2, 3), `SHIFT_SRC` the spec's value of it (D13, log 7). -/
def State.reset : State where
  mem := []
  v := Vector.replicate 16 0
  i := 0
  pc := 0x200
  sp := 0
  stack := Vector.replicate 16 0
  dt := 0
  st := 0
  disp := Vector.replicate 32 (Vector.replicate 64 false)
  keys := Vector.replicate 16 false
  wait := .running
  keyLatch := none
  host := []
  rnd := none
  draws := 0
  shiftSrc := .vx

end Sys2Proof.Machine
end

