-- ==== Sys2Proof/Machine/Ops.lean ====
section
/-! DEFINITION. The named operations over the state: registers, pc, stack, memory, display, timers, keys, and raising an
error (60_exceptions.md R130, R131), which is this machine's only exception. -/

namespace Sys2Proof.Machine

/-- What an operation answers. -/
abbrev Result := Host.Outcome State Fault Refusal

/-! ## Registers -/

/-- Read `V[x]` (R10). -/
def readV (x : Nibble) (s : State) : Byte := s.v[x.toNat]'x.isLt

/-- Write `V[x]` (R10). -/
def writeV (x : Nibble) (b : Byte) (s : State) : State := { s with v := s.v.set x.toNat b x.isLt }

/-- Write consecutive registers from `V[k]` on, ascending (R105). -/
def writeVs : Nat → List Byte → State → State
  | _, [], s => s
  | k, b :: bs, s => writeVs (k + 1) bs (writeV (BitVec.ofNat 4 k) b s)

/-- Read V0 to Vx, ascending (R104). -/
def readVs (x : Nibble) (s : State) : List Byte :=
  (List.range (x.toNat + 1)).map (fun k => readV (BitVec.ofNat 4 k) s)

/-- Write I (R12). -/
def writeI (w : Word) (s : State) : State := { s with i := w }

/-- Write pc (R13, R70: the target is not checked). -/
def jump (w : Word) (s : State) : State := { s with pc := w }

/-- `pc <- pc + 2`: the advance of the cycle and the skip (R62, R70; the sum wraps only where no run gets, log 6). -/
def advance (s : State) : State := jump (s.pc + 2) s

/-- Skip the next instruction when the condition holds (R70). -/
def skipIf (c : Bool) (s : State) : State := if c then advance s else s

/-! ## Stack (R14, R71, R73) -/

/-- `stack[SP] <- w; SP <- SP + 1`. -/
def push (w : Word) (s : State) : State :=
  { s with stack := s.stack.setIfInBounds s.sp.toNat w, sp := s.sp + 1 }

/-- `SP <- SP - 1`; the entry keeps its value (R14). -/
def dropTop (s : State) : State := { s with sp := s.sp - 1 }

/-- `stack[SP - 1]`, where there is such an entry. -/
def topEntry (s : State) : Option Word := s.stack[(s.sp - 1).toNat]?

/-! ## Errors (R130 to R134) -/

/-- Raise an error: the operation ends with it and makes no change beyond `afterError` (R131). There is no handler and
nothing is saved (R133), so this is all there is to taking an exception on this machine. -/
def raise (f : Fault) : Result := .fault f

/-- The state after an operation begun in `s` returned the error (R131): unchanged, or with pc advanced for the errors
of the Execute step. A host that goes on after an error goes on from here (R134). -/
def afterError : Fault → State → State
  | .programCounterOutOfRange _, s => s
  | .illegalOpcode _, s => advance s
  | .stackOverflow, s => advance s
  | .stackUnderflow, s => advance s
  | .memoryOutOfRange _, s => advance s
  | .imageTooLarge _, s => s
  | .stackPointerOutOfRange _, s => advance s

/-- The code numbers of R130 (the spec's own, D5); the model's extra name has none. -/
def errorCode : Fault → Option Nat
  | .programCounterOutOfRange _ => some 1
  | .illegalOpcode _ => some 2
  | .stackOverflow => some 3
  | .stackUnderflow => some 4
  | .memoryOutOfRange _ => some 5
  | .imageTooLarge _ => some 6
  | .stackPointerOutOfRange _ => none

/-! ## Memory (R31 to R33, R37, R40, R45) -/

/-- The byte at an address (R31), the bound having been checked. -/
def readByte (a : Nat) (s : State) : Byte := s.mem.read a

/-- Store a byte (R32), the bound having been checked. -/
def writeByte (a : Nat) (b : Byte) (s : State) : State := { s with mem := s.mem.write a b }

/-- The `n` bytes from `a` on, ascending (R37). -/
def readBytes (a n : Nat) (s : State) : List Byte :=
  (List.range n).map (fun k => readByte (a + k) s)

/-- Store bytes from `a` on, ascending (R37). -/
def writeBytes : Nat → List Byte → State → State
  | _, [], s => s
  | a, b :: bs, s => writeBytes (a + 1) bs (writeByte a b s)

/-- Every address of the range `a` to `a + n - 1` exists; an empty range always does (R33, R45). -/
def inMemory (a n : Nat) : Bool := n == 0 || a + n ≤ Config.memSize

/-- Check the whole range first: the next state is `t` where every address of it exists, else `MemoryOutOfRange` is
raised with its lowest bad address and `t` does not come about (R45, R107). -/
def withRange (a n : Nat) (t : State) : Result :=
  if inMemory a n then .next t else raise (.memoryOutOfRange (max a Config.memSize))

/-! ## Display (R19) -/

/-- The cell at column `x`, row `y`, both reduced modulo the size (R19). -/
def cell (x y : Nat) (d : Display) : Bool :=
  (d[y % 32]'(Nat.mod_lt _ (by decide)))[x % 64]'(Nat.mod_lt _ (by decide))

/-- XOR the cell at column `x`, row `y` with 1. -/
def flipCell (x y : Nat) (d : Display) : Display :=
  d.set (y % 32)
    ((d[y % 32]'(Nat.mod_lt _ (by decide))).set (x % 64) (!cell x y d) (Nat.mod_lt _ (by decide)))
    (Nat.mod_lt _ (by decide))

/-- The clear display: every cell off. -/
def clearDisplay : Display := Vector.replicate 32 (Vector.replicate 64 false)

/-- Write the display. -/
def writeDisp (d : Display) (s : State) : State := { s with disp := d }

/-! ## Timers, keys, the wait (R18, R20, R24, R25) -/

/-- Write DT. -/
def writeDt (b : Byte) (s : State) : State := { s with dt := b }

/-- Write ST. -/
def writeSt (b : Byte) (s : State) : State := { s with st := b }

/-- Whether logical key `k` is pressed. -/
def keyPressed (k : Nibble) (s : State) : Bool := s.keys[k.toNat]'k.isLt

/-- Record the state of logical key `k`. -/
def writeKey (k : Nibble) (p : Bool) (s : State) : State := { s with keys := s.keys.set k.toNat p k.isLt }

/-- Write the wait-for-key sub-state. -/
def writeWait (w : Wait) (s : State) : State := { s with wait := w }

/-- Write the key latch. -/
def writeLatch (l : Option Nibble) (s : State) : State := { s with keyLatch := l }

/-! ## The draw (R95), the host's list, the parameter `SHIFT_SRC`: the model's own fields -/

/-- The draw of this tick: the host's where it names one, else the next free value (log 2). -/
def draw (s : State) : Byte := s.rnd.getD (Config.rnd s.draws)

/-- A free draw is used once (R95, U20: every execution draws independently). -/
def useDraw (s : State) : State :=
  match s.rnd with
  | some _ => s
  | none => { s with draws := s.draws + 1 }

/-- The draw the host names for the coming tick. -/
def withDraw (r : Option Byte) (s : State) : State := { s with rnd := r }

/-- The calls the host still makes. -/
def withHost (h : List HostOp) (s : State) : State := { s with host := h }

/-- The machine with another value of the open parameter `SHIFT_SRC` (R5, R22; log 7). -/
def withShiftSrc (c : Config.ShiftSrc) (s : State) : State := { s with shiftSrc := c }

end Sys2Proof.Machine
end

