-- ==== Sys2Proof/Machine/Flags.lean ====
section
/-! DEFINITION. The flag computations (10_state.md R11, 42_load_alu.md R91, R92). The flag is the register VF. -/

namespace Sys2Proof.Machine

/-- The index of VF. -/
def vf : Nibble := 0xF

/-- A flag as the byte written to VF: 0x00 or 0x01 (R11). -/
def flagByte (c : Bool) : Byte := if c then 1 else 0

/-- Carry of an addition: 1 iff a + b > 255 (R86). -/
def carry (a b : Byte) : Bool := decide (a.toNat + b.toNat > 255)

/-- Not-borrow of a - b: 1 iff a >= b (R87, R89). -/
def noBorrow (a b : Byte) : Bool := decide (a.toNat ≥ b.toNat)

/-- The bit a shift right by one takes out (R88). -/
def lowBit (a : Byte) : Bool := a.getLsbD 0

/-- The bit a shift left by one takes out (R90). -/
def highBit (a : Byte) : Bool := a.getLsbD 7

/-- Write the flag to VF. -/
def writeFlag (c : Bool) (s : State) : State := writeV vf (flagByte c) s

/-- Write the result to `V[x]`, then the flag to VF, so the flag wins when x = 0xF (R91; the spec's decision D15, log 16). -/
def writeResultFlag (x : Nibble) (r : Byte) (c : Bool) (s : State) : State := writeFlag c (writeV x r s)

end Sys2Proof.Machine
end

