-- ==== Sys2Proof/Machine/Operands.lean ====
section
/-! DEFINITION. The operand forms (30_encoding.md R49, 43_index_memory.md R106): register, immediate, memory at I plus
an offset, and the derived operands of single instructions. -/

namespace Sys2Proof.Machine

/-- `zext_16(nnn)`: an address immediate as a 16-bit value (R49). -/
def addrImm (nnn : Addr12) : Word := nnn.setWidth 16

/-- `zext_16(V[x])` (R78, R101). -/
def wideV (x : Nibble) (s : State) : Word := (readV x s).setWidth 16

/-- The operand of a shift: `V[x]` or `V[y]` by the parameter `SHIFT_SRC` (R88, R90). -/
def shiftOperand (x y : Nibble) (s : State) : Byte :=
  match s.shiftSrc with
  | .vx => readV x s
  | .vy => readV y s

/-- The base address of a memory operand: I, an unbounded integer (R40). -/
def baseI (s : State) : Nat := s.i.toNat

/-- The key a key test names: the low nibble of `V[x]` (R127; the spec's decision D20, log 21). -/
def keyIndex (x : Nibble) (s : State) : Nibble := (readV x s).setWidth 4

/-- The address of the glyph of the low nibble of `V[x]`: `FONT_BASE + 5 * V[x][3:0]` (R102). -/
def glyphAddr (x : Nibble) (s : State) : Word :=
  BitVec.ofNat 16 (fontBase + Config.glyphSize * ((readV x s).setWidth 4 : Nibble).toNat)

/-- The decimal digits of a byte: hundreds, tens, ones (R103). -/
def digits (b : Byte) : List Byte :=
  [BitVec.ofNat 8 (b.toNat / 100), BitVec.ofNat 8 (b.toNat / 10 % 10), BitVec.ofNat 8 (b.toNat % 10)]

end Sys2Proof.Machine
end

