-- ==== Sys2Proof/Machine/Display.lean ====
section
/-! DEFINITION. Display instructions (44_display.md R110 to R114). The draw is R111's own loop: rows, then the columns of a
row, each 1 bit of the sprite flipping one cell and noting a collision. -/

namespace Sys2Proof.Machine

/-- `CLS`, R110. -/
def execCls (s : State) : Result := .next (writeDisp clearDisplay s)

/-- What a draw has done so far: the display, and whether some cell went from on to off. -/
structure Canvas where
  disp : Display
  hit : Bool
deriving DecidableEq, Repr

/-- Draw one 1 bit of a sprite: flip the cell, and note a collision if it was on (R111). -/
def drawBit (x y : Nat) (d : Canvas) : Canvas :=
  { disp := flipCell x y d.disp, hit := d.hit || cell x y d.disp }

/-- Bit 7-c of a sprite byte is its column c, so the most significant bit is the leftmost cell (R112; PRESUMED, the
family's, D19, U4, log 20). -/
def spriteBit (b : Byte) (c : Nat) : Bool := b.getLsbD (7 - c)

/-- Draw the columns `cs` of one sprite byte with its column 0 at column `x` of row `y`. Columns wrap (R112). -/
def drawCols (b : Byte) (x y : Nat) : List Nat → Canvas → Canvas
  | [], d => d
  | c :: cs, d => drawCols b x y cs (if spriteBit b c then drawBit (x + c) y d else d)

/-- Draw one row of a sprite: its 8 columns. -/
def drawRow (b : Byte) (x y : Nat) (d : Canvas) : Canvas := drawCols b x y (List.range 8) d

/-- Draw the rows of a sprite from row `y` down. Rows wrap (R112). -/
def drawSprite : List Byte → Nat → Nat → Canvas → Canvas
  | [], _, _, d => d
  | b :: bs, x, y, d => drawSprite bs x (y + 1) (drawRow b x y d)

/-- The sprite of `n` bytes at I drawn at (`V[x]`, `V[y]`) on the display as it is (R111, R112). -/
def drawn (x y n : Nibble) (s : State) : Canvas :=
  drawSprite (readBytes (baseI s) n.toNat s) (readV x s).toNat (readV y s).toNat { disp := s.disp, hit := false }

/-- `DRW Vx, Vy, n`, R111: the flag is written last, after the coordinates have been read. -/
def execDrw (x y n : Nibble) (s : State) : Result :=
  let d := drawn x y n s
  withRange (baseI s) n.toNat (writeFlag d.hit (writeDisp d.disp s))

end Sys2Proof.Machine
end

