-- ==== Sys2Proof/Machine/Flow.lean ====
section
/-! DEFINITION. Control transfer (41_flow.md R70 to R79). On entry pc is the advanced pc (R8, R62). -/

namespace Sys2Proof.Machine

/-- `RET`, R71. An SP above 16 names no entry (log 5). -/
def execRet (s : State) : Result :=
  if s.sp = 0 then raise .stackUnderflow
  else
    match topEntry s with
    | some w => .next (jump w (dropTop s))
    | none => raise (.stackPointerOutOfRange s.sp)

/-- `JP nnn`, R72. -/
def execJp (nnn : Addr12) (s : State) : Result := .next (jump (addrImm nnn) s)

/-- `CALL nnn`, R73: the advanced pc is pushed. An SP above 16 names no entry (log 5). -/
def execCall (nnn : Addr12) (s : State) : Result :=
  if s.sp.toNat = Config.stackDepth then raise .stackOverflow
  else if s.sp.toNat < Config.stackDepth then .next (jump (addrImm nnn) (push s.pc s))
  else raise (.stackPointerOutOfRange s.sp)

/-- `SE Vx, kk`, R74. -/
def execSeImm (x : Nibble) (kk : Byte) (s : State) : Result := .next (skipIf (readV x s == kk) s)

/-- `SNE Vx, kk`, R75. -/
def execSneImm (x : Nibble) (kk : Byte) (s : State) : Result := .next (skipIf (readV x s != kk) s)

/-- `SE Vx, Vy`, R76. -/
def execSeReg (x y : Nibble) (s : State) : Result := .next (skipIf (readV x s == readV y s) s)

/-- `SNE Vx, Vy`, R77. -/
def execSneReg (x y : Nibble) (s : State) : Result := .next (skipIf (readV x s != readV y s) s)

/-- `JP V0, nnn`, R78: a 16-bit sum, not masked (the spec's decision D17, log 18). -/
def execJpV0 (nnn : Addr12) (s : State) : Result := .next (jump (addrImm nnn + wideV 0 s) s)

end Sys2Proof.Machine
end

