-- ==== Sys2Proof/Machine/IndexMemory.lean ====
section
/-! DEFINITION. Index register and memory instructions (43_index_memory.md R100 to R107). None writes pc; only the
first three write I (the spec's decision D18, log 19). -/

namespace Sys2Proof.Machine

/-- `LD I, nnn`, R100. -/
def execLdI (nnn : Addr12) (s : State) : Result := .next (writeI (addrImm nnn) s)

/-- `ADD I, Vx`, R101: modulo 2^16, no flag (the spec's decision D16, log 17). -/
def execAddI (x : Nibble) (s : State) : Result := .next (writeI (s.i + wideV x s) s)

/-- `LD F, Vx`, R102. -/
def execLdF (x : Nibble) (s : State) : Result := .next (writeI (glyphAddr x s) s)

/-- `LD B, Vx`, R103. -/
def execLdB (x : Nibble) (s : State) : Result :=
  withRange (baseI s) 3 (writeBytes (baseI s) (digits (readV x s)) s)

/-- `LD [I], Vx`, R104. -/
def execLdMemVx (x : Nibble) (s : State) : Result :=
  withRange (baseI s) (x.toNat + 1) (writeBytes (baseI s) (readVs x s) s)

/-- `LD Vx, [I]`, R105. -/
def execLdVxMem (x : Nibble) (s : State) : Result :=
  withRange (baseI s) (x.toNat + 1) (writeVs 0 (readBytes (baseI s) (x.toNat + 1) s) s)

end Sys2Proof.Machine
end

