-- ==== Sys2Proof/Machine/KeypadTimers.lean ====
section
/-! DEFINITION. Keypad and timer instructions (45_keypad_timers.md R120 to R128). -/

namespace Sys2Proof.Machine

/-- `SKP Vx`, R120. -/
def execSkp (x : Nibble) (s : State) : Result := .next (skipIf (keyPressed (keyIndex x s) s) s)

/-- `SKNP Vx`, R121. -/
def execSknp (x : Nibble) (s : State) : Result := .next (skipIf (!keyPressed (keyIndex x s) s) s)

/-- `LD Vx, DT`, R124. -/
def execLdVxDt (x : Nibble) (s : State) : Result := .next (writeV x s.dt s)

/-- `LD Vx, K`, R122: the tick that enters the wait and undoes the advance. `waitTick` goes on from there. -/
def execLdVxK (x : Nibble) (s : State) : Result :=
  .next (jump (s.pc - 2) (writeLatch none (writeWait (.awaitingKey x) s)))

/-- `LD DT, Vx`, R125. -/
def execLdDtVx (x : Nibble) (s : State) : Result := .next (writeDt (readV x s) s)

/-- `LD ST, Vx`, R126. -/
def execLdStVx (x : Nibble) (s : State) : Result := .next (writeSt (readV x s) s)

/-- A tick in sub-state `AwaitingKey(x)`, R123: a latched key resolves the wait, without one nothing changes. -/
def waitTick (x : Nibble) (s : State) : State :=
  match s.keyLatch with
  | some k => advance (writeLatch none (writeWait .running (writeV x (k.setWidth 8) s)))
  | none => s

end Sys2Proof.Machine
end

