-- ==== Sys2Proof/Machine/LoadAlu.lean ====
section
/-! DEFINITION. Register loads, the ALU and the random instruction (42_load_alu.md R80 to R95). All arithmetic is on
unsigned bytes, modulo 256 (R92). -/

namespace Sys2Proof.Machine

/-- `LD Vx, kk`, R80. -/
def execLdImm (x : Nibble) (kk : Byte) (s : State) : Result := .next (writeV x kk s)

/-- `ADD Vx, kk`, R81: no flag. -/
def execAddImm (x : Nibble) (kk : Byte) (s : State) : Result := .next (writeV x (readV x s + kk) s)

/-- `LD Vx, Vy`, R82. -/
def execLdReg (x y : Nibble) (s : State) : Result := .next (writeV x (readV y s) s)

/-- `OR Vx, Vy`, R83; VF is left (the spec's decision D14, log 15). -/
def execOrReg (x y : Nibble) (s : State) : Result := .next (writeV x (readV x s ||| readV y s) s)

/-- `AND Vx, Vy`, R84; VF is left (D14, log 15). -/
def execAndReg (x y : Nibble) (s : State) : Result := .next (writeV x (readV x s &&& readV y s) s)

/-- `XOR Vx, Vy`, R85; VF is left (D14, log 15). -/
def execXorReg (x y : Nibble) (s : State) : Result := .next (writeV x (readV x s ^^^ readV y s) s)

/-- `ADD Vx, Vy`, R86. -/
def execAddReg (x y : Nibble) (s : State) : Result :=
  let a := readV x s
  let b := readV y s
  .next (writeResultFlag x (a + b) (carry a b) s)

/-- `SUB Vx, Vy`, R87. -/
def execSubReg (x y : Nibble) (s : State) : Result :=
  let a := readV x s
  let b := readV y s
  .next (writeResultFlag x (a - b) (noBorrow a b) s)

/-- `SHR Vx {, Vy}`, R88. -/
def execShr (x y : Nibble) (s : State) : Result :=
  let a := shiftOperand x y s
  .next (writeResultFlag x (a >>> 1) (lowBit a) s)

/-- `SUBN Vx, Vy`, R89. -/
def execSubnReg (x y : Nibble) (s : State) : Result :=
  let a := readV x s
  let b := readV y s
  .next (writeResultFlag x (b - a) (noBorrow b a) s)

/-- `SHL Vx {, Vy}`, R90. -/
def execShl (x y : Nibble) (s : State) : Result :=
  let a := shiftOperand x y s
  .next (writeResultFlag x (a <<< 1) (highBit a) s)

/-- `RND Vx, kk`, R95: the draw is the host's or a free value (log 2). -/
def execRnd (x : Nibble) (kk : Byte) (s : State) : Result := .next (useDraw (writeV x (draw s &&& kk) s))

end Sys2Proof.Machine
end

