-- ==== Sys2Proof/Machine/HostOps.lean ====
section
/-! DEFINITION. The host operations other than `tick` (60_exceptions.md R145, R148, R151; 70_reset_and_hazards.md R160,
R163). -/

namespace Sys2Proof.Machine

/-- `tick_timers()`, R145. -/
def tickTimers (s : State) : State :=
  writeSt (if s.st = 0 then 0 else s.st - 1) (writeDt (if s.dt = 0 then 0 else s.dt - 1) s)

/-- The machine is inside a `LD Vx, K` (R24). -/
def isWaiting (s : State) : Bool :=
  match s.wait with
  | .running => false
  | .awaitingKey _ => true

/-- `keypress(k, pressed)`, R148: the first 0-to-1 transition of a wait is latched (R128; the spec's decision D21, log 22). -/
def keypress (k : Nibble) (pressed : Bool) (s : State) : State :=
  if isWaiting s && s.keyLatch.isNone && pressed && !keyPressed k s then
    writeLatch (some k) (writeKey k pressed s)
  else writeKey k pressed s

/-- `reset()`, R160. Every element of the spec's state is at its reset value; the host's remaining calls and the count of
free draws are the model's own and are kept (log 2, 3), and so is the parameter `SHIFT_SRC` (R22, log 7). -/
def hostReset (s : State) : State :=
  { State.reset with host := s.host, rnd := s.rnd, draws := s.draws, shiftSrc := s.shiftSrc }

/-- `load(image)`, R163, R164: a copy to 0x200 and nothing else. -/
def load (image : List Byte) (s : State) : Result :=
  if image.length > Config.imageMax then raise (.imageTooLarge image.length)
  else .next (writeBytes Config.progBase image s)

/-- The moment for `load`: directly after reset, before the first tick (R165, R166): the state is the reset state. -/
def launchReady (s : State) : Bool := decide (s = hostReset s)

/-- `read_display()`, R151: the 2048 cells, cell (x, y) at index 64*y + x. It changes nothing. -/
def readDisplay (s : State) : List Bool := (s.disp.toList.map Vector.toList).flatten

end Sys2Proof.Machine
end

