-- ==== Sys2Proof/Machine/Cycle.lean ====
section
/-! DEFINITION. The instruction cycle `tick` (40_cycle.md R60 to R68) and the serving of the host's calls, one at a time
(00_scope.md R9, 60_exceptions.md R137). -/

namespace Sys2Proof.Machine

/-- Step 1, Fetch (R61): the big-endian word at pc, where pc and pc+1 are both below 4096. -/
def fetch (s : State) : Option Word :=
  if s.pc.toNat + 1 < Config.memSize then
    some (wordOfBytes (readByte s.pc.toNat s) (readByte (s.pc.toNat + 1) s))
  else none

/-- Steps 2 to 4 (R62 to R64): advance, decode, execute. The advance comes first, so exec finds the advanced pc. -/
def executeWord (op : Word) (s : State) : Result :=
  match decode op with
  | .ok i => exec i (advance s)
  | .error _ => raise (.illegalOpcode op)

/-- `tick`, R60: inside a `LD Vx, K` the wait goes on or resolves; else one pass of the cycle. -/
def tick (s : State) : Result :=
  match s.wait with
  | .awaitingKey x => .next (waitTick x s)
  | .running =>
    match fetch s with
    | none => raise (.programCounterOutOfRange s.pc)
    | some op => executeWord op s

/-- Perform one host operation. `load` has a move only at launch (R166, U9, log 4). -/
def serve (op : HostOp) (s : State) : Result :=
  match op with
  | .reset => .next (hostReset s)
  | .load image => if launchReady s then load image s else .refused .loadOutsideLaunch
  | .tick r => tick (withDraw (some r) s)
  | .tickTimers => .next (tickTimers s)
  | .keypress k p => .next (keypress k p s)
  | .readDisplay => .next s

/-- One atomic operation (R9): the next call of the host's list, or, when there is none, a tick with a free draw. -/
def serveNext (s : State) : Result :=
  match s.host with
  | [] => tick (withDraw none s)
  | op :: rest => serve op (withHost rest s)

/-- What an operation returns to the host (R60, R130, R151). -/
inductive Reply where
  | ok
  | error (f : Fault)
  | bitmap (cells : List Bool)
  | noMove (r : Refusal)
deriving DecidableEq, Repr

/-- A host operation as a transaction: the state after it, errors included (R131), and what it returned. A host that
goes on after an error calls again (R134). -/
def call (op : HostOp) (s : State) : State × Reply :=
  match serve op s with
  | .next t => (t, if op = .readDisplay then .bitmap (readDisplay s) else .ok)
  | .fault f => (afterError f s, .error f)
  | .refused r => (s, .noMove r)

/-- Any sequence of host operations, errors not ending it: the interleavings of R137. -/
def callAll (ops : List HostOp) (s : State) : State :=
  match ops with
  | [] => s
  | op :: rest => callAll rest (call op s).1

/-- Make the machine ready to fetch (R60, R61): no host call pending, no wait, pc at a place that can be fetched from. -/
def readyToFetch (s : State) : State :=
  let t := withHost [] (writeLatch none (writeWait .running s))
  if s.pc.toNat + 1 < Config.memSize then t else jump (BitVec.ofNat 16 Config.progBase) t

/-- Store the bytes of a word where the fetch reads its next word (R34). -/
def placeWord (op : Word) (s : State) : State := writeBytes s.pc.toNat (bytesOfWord op) s

end Sys2Proof.Machine
end

