-- ==== Sys2Proof/Machine/Step.lean ====
section
/-! DEFINITION. One step of the machine: one atomic operation (00_scope.md R9, 40_cycle.md R60), and the placing of an
instruction where the next step fetches it. -/

namespace Sys2Proof.Machine

/-- One step: the host's next call, or a tick when it makes none (Machine/Cycle.lean). -/
def step (s : State) : Host.Outcome State Fault Refusal := serveNext s

/-- `s` with the instruction whose table word is `w` stored where `step` fetches its next instruction, ready to run it
as the very next step (log 12). -/
def State.withFetchWord (s : State) (nbits w : Nat) : State :=
  placeWord (BitVec.ofNat 16 (w % 2 ^ nbits)) (readyToFetch s)

end Sys2Proof.Machine
end

