-- ==== Sys2Proof/Safety.lean ====
section
/-! DEFINITION. The terms the statements use: the parts of the state and what keeps them, what each instruction may write,
the invariant of the reachable states, the cells a sprite covers, a normal end of a run. -/

namespace Sys2Proof.Machine

/-! ## Frames -/

/-- The parts of the state. -/
inductive Part where
  | mem | v | i | pc | sp | stack | dt | st | disp | keys | wait | keyLatch | host | rnd | draws
  | shiftSrc
deriving DecidableEq, Repr

/-- The part reads in `t` as it does in `s`: registers, cells, keys and memory through the machine's own reads. -/
def SamePart (p : Part) (s t : State) : Prop :=
  match p with
  | .mem => ∀ a, readByte a t = readByte a s
  | .v => ∀ r, readV r t = readV r s
  | .i => t.i = s.i
  | .pc => t.pc = s.pc
  | .sp => t.sp = s.sp
  | .stack => t.stack = s.stack
  | .dt => t.dt = s.dt
  | .st => t.st = s.st
  | .disp => ∀ x y, cell x y t.disp = cell x y s.disp
  | .keys => ∀ k, keyPressed k t = keyPressed k s
  | .wait => t.wait = s.wait
  | .keyLatch => t.keyLatch = s.keyLatch
  | .host => t.host = s.host
  | .rnd => t.rnd = s.rnd
  | .draws => t.draws = s.draws
  | .shiftSrc => t.shiftSrc = s.shiftSrc

/-- Every part but the named ones is kept. -/
def KeepsAllBut (changed : List Part) (s t : State) : Prop := ∀ p, p ∉ changed → SamePart p s t

/-- Every general register but the named ones is kept. -/
def KeepsRegsBut (changed : List Nibble) (s t : State) : Prop := ∀ r, r ∉ changed → readV r t = readV r s

/-- Every byte of memory outside the `n` bytes from `a` on reads as before. -/
def KeepsBytesOutside (a n : Nat) (s t : State) : Prop :=
  ∀ b, b < a ∨ a + n ≤ b → readByte b t = readByte b s

/-- The parts each instruction's rule lets it write (10_state.md R11, R21; 41 to 45). pc stands for what it does to pc
beyond the advance of the cycle. -/
def mayWrite : Instr → List Part
  | .cls => [.disp]
  | .ret => [.pc, .sp]
  | .jp _ => [.pc]
  | .call _ => [.pc, .sp, .stack]
  | .seImm _ _ => [.pc]
  | .sneImm _ _ => [.pc]
  | .seReg _ _ => [.pc]
  | .ldImm _ _ => [.v]
  | .addImm _ _ => [.v]
  | .ldReg _ _ => [.v]
  | .orReg _ _ => [.v]
  | .andReg _ _ => [.v]
  | .xorReg _ _ => [.v]
  | .addReg _ _ => [.v]
  | .subReg _ _ => [.v]
  | .shr _ _ => [.v]
  | .subnReg _ _ => [.v]
  | .shl _ _ => [.v]
  | .sneReg _ _ => [.pc]
  | .ldI _ => [.i]
  | .jpV0 _ => [.pc]
  | .rnd _ _ => [.v, .draws]
  | .drw _ _ _ => [.v, .disp]
  | .skp _ => [.pc]
  | .sknp _ => [.pc]
  | .ldVxDt _ => [.v]
  | .ldVxK _ => [.wait, .keyLatch, .pc]
  | .ldDtVx _ => [.dt]
  | .ldStVx _ => [.st]
  | .addI _ => [.i]
  | .ldF _ => [.i]
  | .ldB _ => [.mem]
  | .ldMemVx _ => [.mem]
  | .ldVxMem _ => [.v]

/-- The general registers each instruction's rule lets it write: its destination, and VF for the six that write it as a
flag (R11). -/
def mayWriteRegs : Instr → List Nibble
  | .cls => []
  | .ret => []
  | .jp _ => []
  | .call _ => []
  | .seImm _ _ => []
  | .sneImm _ _ => []
  | .seReg _ _ => []
  | .ldImm x _ => [x]
  | .addImm x _ => [x]
  | .ldReg x _ => [x]
  | .orReg x _ => [x]
  | .andReg x _ => [x]
  | .xorReg x _ => [x]
  | .addReg x _ => [x, vf]
  | .subReg x _ => [x, vf]
  | .shr x _ => [x, vf]
  | .subnReg x _ => [x, vf]
  | .shl x _ => [x, vf]
  | .sneReg _ _ => []
  | .ldI _ => []
  | .jpV0 _ => []
  | .rnd x _ => [x]
  | .drw _ _ _ => [vf]
  | .skp _ => []
  | .sknp _ => []
  | .ldVxDt x => [x]
  | .ldVxK _ => []
  | .ldDtVx _ => []
  | .ldStVx _ => []
  | .addI _ => []
  | .ldF _ => []
  | .ldB _ => []
  | .ldMemVx _ => []
  | .ldVxMem x => (List.range (x.toNat + 1)).map (BitVec.ofNat 4)

/-! ## The invariant of the reachable states (10_state.md R13, R14, R23, R25) -/

/-- A live stack entry is a previously advanced pc, 2 to 4096 (R13, R71). -/
def LiveEntriesAreReturns (s : State) : Prop :=
  ∀ k w, k < s.sp.toNat → s.stack[k]? = some w → 2 ≤ w.toNat ∧ w.toNat ≤ 4096

/-- While the machine waits, pc is the address of the waiting `LD Vx, K` and its bytes are there (R23, R24). -/
def WaitStandsOnItsInstr (s : State) : Prop :=
  ∀ x, s.wait = .awaitingKey x →
    s.pc.toNat ≤ 4094 ∧
    readByte s.pc.toNat s = 0xF0 + x.setWidth 8 ∧ readByte (s.pc.toNat + 1) s = 0x0A

/-- The invariant: memory in canonical form, SP at most 16, pc at most 0x10FE, live entries return addresses, no latch
without a wait, a wait on its own instruction (R23). -/
def MachineInv (s : State) : Prop :=
  Memory.wf s.mem ∧ s.sp.toNat ≤ 16 ∧ s.pc.toNat ≤ 0x10FE ∧ LiveEntriesAreReturns s ∧
  (s.wait = .running → s.keyLatch = none) ∧ WaitStandsOnItsInstr s

/-! ## Stores (43_index_memory.md R103, R104) -/

/-- What the byte at `b` reads as once the bytes `bs` stand from `a` on: theirs inside the range, the old byte outside. -/
def byteAfterStore (a : Nat) (bs : List Byte) (s : State) (b : Nat) : Byte :=
  if a ≤ b then bs.getD (b - a) (readByte b s) else readByte b s

/-! ## Sprites (44_display.md R112) -/

/-- A 1 bit of the `n`-byte sprite at `a`, drawn with its origin at (x0, y0), falls on the cell (px, py): the cell formula
of R112, without any loop. -/
def Covers (s : State) (a n x0 y0 px py : Nat) : Prop :=
  ∃ r c, r < n ∧ c < 8 ∧ (y0 + r) % 32 = py ∧ (x0 + c) % 64 = px ∧ (readByte (a + r) s).getLsbD (7 - c) = true

/-! ## Runs -/

/-- Execute instructions one after the other, each with pc advanced first (40_cycle.md R62, R64), fetched from nowhere. -/
def execAll : List Instr → State → Result
  | [], s => .next s
  | i :: is, s =>
    match exec i (advance s) with
    | .next t => execAll is t
    | .fault f => .fault f
    | .refused r => .refused r

/-- The run has ended normally: `Running` at a jump to itself (70_reset_and_hazards.md R174; the spec's convention, D34). -/
def EndedNormally (s : State) : Prop :=
  s.wait = .running ∧ s.pc.toNat < 4095 ∧ fetch s = some (0x1000 + s.pc)

/-- The fields of the host's input set to any values: the host's calls, the draw it names, the count of free draws. -/
def withInputs (h : List HostOp) (r : Option Byte) (d : Nat) (s : State) : State :=
  { s with host := h, rnd := r, draws := d }

/-- Host calls that never end a wait nor touch what it stands on: `tick_timers` and `keypress` (60_exceptions.md R137). -/
def isEvent : HostOp → Bool
  | .reset => false
  | .load _ => false
  | .tick _ => false
  | .tickTimers => true
  | .keypress _ _ => true
  | .readDisplay => true

end Sys2Proof.Machine
end

