-- ==== Sys2Proof/Certificates/Slice0/Obligations.lean ====
section
/-! DEFINITION. The statements for the provers. Each docstring names the rule it formalises; a clause that rests on a
decision of the spec (D<n>) or on a choice of the model (log <n>) says so. On entry to exec, pc is the advanced pc (R8). -/

open Sys2Proof Sys2Proof.Machine

/-! ## Encoding -/

/-- R50, R52: decoding the word of any instruction gives the instruction back, every field at every value. The word of each
family-8 operation is the spec's decision D12 (log 14). -/
def Obligations.EncodeThenDecodeIsIdentity : Prop := ∀ i : Instr, decode (encode i) = .ok i

/-- R50, R52: a word decodes to an instruction only if it is that instruction's word, so no two words share a meaning. -/
def Obligations.DecodedWordIsTheEncoding : Prop := ∀ (op : Word) (i : Instr), decode op = .ok i → encode i = op

/-- R50, R53: the decoder accepts exactly the words that match a row of the opcode map, and no word matches two rows. That
literal digits are required is the spec's decision D11 (log 13). -/
def Obligations.DecoderAcceptsExactlyTheOpcodeMap : Prop :=
  (∀ op : Word, (∃ i, decode op = .ok i) ↔ legalWord op = true) ∧
  ∀ (op : Word) (r q : Row), r ∈ opcodeMap → q ∈ opcodeMap → r.matches op = true → q.matches op = true → r = q

/-- R53's table of illegal words (the spec's decision D11, log 13): exactly these are rejected. -/
def Obligations.IllegalWordsByFamily : Prop :=
  ∀ op : Word, decode op = .error (.illegalOpcode op) ↔
    (fieldN3 op = 0x0 ∧ op ≠ 0x00E0 ∧ op ≠ 0x00EE) ∨
    (fieldN3 op = 0x5 ∧ fieldN op ≠ 0) ∨
    (fieldN3 op = 0x8 ∧ (fieldN op = 0xF ∨ 8 ≤ (fieldN op).toNat ∧ (fieldN op).toNat ≤ 0xD)) ∨
    (fieldN3 op = 0x9 ∧ fieldN op ≠ 0) ∨
    (fieldN3 op = 0xE ∧ fieldKK op ∉ ([0x9E, 0xA1] : List Byte)) ∨
    (fieldN3 op = 0xF ∧ fieldKK op ∉ ([0x07, 0x0A, 0x15, 0x18, 0x1E, 0x29, 0x33, 0x55, 0x65] : List Byte))

/-- Words written out from R50's patterns, one of each family: a sanity statement. The family-8 word is S7's own example. -/
def Obligations.SampleWordsDecode : Prop :=
  decode 0x00E0 = .ok .cls ∧ decode 0x00EE = .ok .ret ∧ decode 0x1234 = .ok (.jp 0x234) ∧
  decode 0x2ABC = .ok (.call 0xABC) ∧ decode 0x6AFF = .ok (.ldImm 0xA 0xFF) ∧ decode 0x8014 = .ok (.addReg 0 1) ∧
  decode 0xD5A3 = .ok (.drw 0x5 0xA 0x3) ∧ decode 0xE19E = .ok (.skp 1) ∧ decode 0xF355 = .ok (.ldMemVx 3)

/-! ## The cycle -/

/-- R60, R62, R63, R64, with the model's list of host calls (log 3): when the two bytes at pc decode to `i` and the machine
runs, a step is exec of `i` with pc advanced, the draw set as the host gives it. -/
def Obligations.StepRunsTheDecodedInstruction : Prop :=
  ∀ (s : State) (op : Word) (i : Instr), s.wait = .running → fetch s = some op → decode op = .ok i →
    (s.host = [] → step s = exec i (advance (withDraw none s))) ∧
    (∀ r rest, s.host = .tick r :: rest → step s = exec i (advance (withDraw (some r) (withHost rest s))))

/-- R9, R137, with the model's list of host calls (log 3): a step performs the host's next call, or ticks when there is
none; a `load` is performed at launch (R165, log 4). -/
def Obligations.StepPerformsTheNextHostCall : Prop :=
  ∀ (s : State) (rest : List HostOp),
    (s.host = [] → step s = tick (withDraw none s)) ∧
    (∀ r, s.host = .tick r :: rest → step s = tick (withDraw (some r) (withHost rest s))) ∧
    (s.host = .tickTimers :: rest → step s = .next (tickTimers (withHost rest s))) ∧
    (∀ k p, s.host = .keypress k p :: rest → step s = .next (keypress k p (withHost rest s))) ∧
    (s.host = .reset :: rest → step s = .next (hostReset (withHost rest s))) ∧
    (s.host = .readDisplay :: rest → step s = .next (withHost rest s)) ∧
    (∀ img, s.host = .load img :: rest → withHost rest s = hostReset (withHost rest s) →
      step s = load img (withHost rest s))

/-- R61: the fetch fails iff pc or pc+1 is not below 4096, with the state unchanged; else it reads the big-endian word at
pc, odd or even. -/
def Obligations.FetchChecksThenReadsBigEndian : Prop :=
  ∀ s : State, s.wait = .running →
    (4095 ≤ s.pc.toNat → tick s = .fault (.programCounterOutOfRange s.pc) ∧
      afterError (.programCounterOutOfRange s.pc) s = s) ∧
    (s.pc.toNat ≤ 4094 → ∃ op, fetch s = some op ∧
      op.toNat = (readByte s.pc.toNat s).toNat * 256 + (readByte (s.pc.toNat + 1) s).toNat ∧
      tick s = executeWord op s)

/-- R64: an illegal word is always surfaced as IllegalOpcode, with pc advanced after it; any other word runs the rule of
its instruction with the advanced pc. -/
def Obligations.IllegalOpcodeIsSurfaced : Prop :=
  ∀ (s : State) (op : Word), s.wait = .running → fetch s = some op →
    ((¬ ∃ i, decode op = .ok i) → tick s = .fault (.illegalOpcode op)) ∧
    (∀ i, decode op = .ok i → tick s = exec i (advance s)) ∧
    (advance s).pc = s.pc + 2

/-- R65, R131 (the spec's decision D4, log 25): after an error nothing but pc differs, and pc is unchanged for the fetch
error and `ImageTooLarge`, advanced for the errors of the Execute step. -/
def Obligations.ErrorsChangeOnlyPc : Prop :=
  ∀ (op : HostOp) (s t : State) (f : Fault), call op s = (t, .error f) →
    KeepsAllBut [.pc] s t ∧
    t.pc = (match f with
      | .programCounterOutOfRange _ => s.pc
      | .imageTooLarge _ => s.pc
      | _ => s.pc + 2)

/-- R130, R132: in every state that meets the invariant a tick fails only for the cause R130 names, and never in the wait.
`stackPointerOutOfRange`, the model's own name (log 5), does not occur there. -/
def Obligations.TickErrorsHaveTheirCause : Prop :=
  ∀ (s : State) (f : Fault), MachineInv s → tick s = .fault f →
    s.wait = .running ∧
    match f with
    | .programCounterOutOfRange p => p = s.pc ∧ 4095 ≤ s.pc.toNat
    | .illegalOpcode op => fetch s = some op ∧ legalWord op = false
    | .stackOverflow => s.sp.toNat = 16 ∧ ∃ nnn, fetch s = some (wordNNN 0x2 nnn)
    | .stackUnderflow => s.sp.toNat = 0 ∧ fetch s = some 0x00EE
    | .memoryOutOfRange a => a = max s.i.toNat 4096 ∧
        ((∃ x, fetch s = some (wordXKK 0xF x 0x33) ∧ 4096 ≤ s.i.toNat + 2) ∨
         (∃ x, fetch s = some (wordXKK 0xF x 0x55) ∧ 4096 ≤ s.i.toNat + x.toNat) ∨
         (∃ x, fetch s = some (wordXKK 0xF x 0x65) ∧ 4096 ≤ s.i.toNat + x.toNat) ∨
         (∃ x y n, fetch s = some (wordXYN 0xD x y n) ∧ 0 < n.toNat ∧ 4096 ≤ s.i.toNat + n.toNat - 1))
    | .imageTooLarge _ => False
    | .stackPointerOutOfRange _ => False

/-- R9, R166, U9 (log 4): a step is refused only for a host's `load` at another moment than directly after reset. -/
def Obligations.OnlyALateLoadIsRefused : Prop :=
  ∀ (s : State) (r : Refusal), step s = .refused r →
    r = .loadOutsideLaunch ∧ ∃ img rest, s.host = .load img :: rest ∧ withHost rest s ≠ hostReset (withHost rest s)

/-! ## Control transfer -/

/-- R72. -/
def Obligations.JumpWritesPc : Prop :=
  ∀ (nnn : Addr12) (s : State),
    decode (wordNNN 0x1 nnn) = .ok (.jp nnn) ∧
    ∃ t, exec (.jp nnn) s = .next t ∧ t.pc.toNat = nnn.toNat ∧ KeepsAllBut [.pc] s t

/-- R73; that SP counts the live entries is the spec's decision D23 (log 23), the stop for an SP above 16, which no run
reaches, the model's choice (log 5). -/
def Obligations.CallPushesTheAdvancedPc : Prop :=
  ∀ (nnn : Addr12) (s : State),
    (s.sp.toNat < 16 → ∃ t, exec (.call nnn) s = .next t ∧ t.pc.toNat = nnn.toNat ∧ t.sp.toNat = s.sp.toNat + 1 ∧
      t.stack[s.sp.toNat]? = some s.pc ∧ (∀ k, k ≠ s.sp.toNat → t.stack[k]? = s.stack[k]?) ∧
      KeepsAllBut [.pc, .sp, .stack] s t) ∧
    (s.sp.toNat = 16 → exec (.call nnn) s = .fault .stackOverflow) ∧
    (16 < s.sp.toNat → exec (.call nnn) s = .fault (.stackPointerOutOfRange s.sp))

/-- R71; the indexing is the spec's decision D23 (log 23), the stop for an SP above 16 the model's choice (log 5). -/
def Obligations.ReturnPopsIntoPc : Prop :=
  ∀ s : State,
    (s.sp.toNat = 0 → exec .ret s = .fault .stackUnderflow) ∧
    (0 < s.sp.toNat → s.sp.toNat ≤ 16 → ∃ t, exec .ret s = .next t ∧ s.stack[s.sp.toNat - 1]? = some t.pc ∧
      t.sp.toNat = s.sp.toNat - 1 ∧ KeepsAllBut [.pc, .sp] s t) ∧
    (16 < s.sp.toNat → exec .ret s = .fault (.stackPointerOutOfRange s.sp))

/-- R74, R75. -/
def Obligations.SkipsOnImmediate : Prop :=
  ∀ (x : Nibble) (kk : Byte) (s : State),
    decode (wordXKK 0x3 x kk) = .ok (.seImm x kk) ∧ decode (wordXKK 0x4 x kk) = .ok (.sneImm x kk) ∧
    (∃ t, exec (.seImm x kk) s = .next t ∧ t.pc = (if readV x s = kk then s.pc + 2 else s.pc) ∧ KeepsAllBut [.pc] s t) ∧
    (∃ t, exec (.sneImm x kk) s = .next t ∧ t.pc = (if readV x s ≠ kk then s.pc + 2 else s.pc) ∧ KeepsAllBut [.pc] s t)

/-- R76, R77. -/
def Obligations.SkipsOnRegister : Prop :=
  ∀ (x y : Nibble) (s : State),
    decode (wordXYN 0x5 x y 0) = .ok (.seReg x y) ∧ decode (wordXYN 0x9 x y 0) = .ok (.sneReg x y) ∧
    (∀ n : Nibble, n ≠ 0 → decode (wordXYN 0x5 x y n) = .error (.illegalOpcode (wordXYN 0x5 x y n)) ∧
      decode (wordXYN 0x9 x y n) = .error (.illegalOpcode (wordXYN 0x9 x y n))) ∧
    (∃ t, exec (.seReg x y) s = .next t ∧ t.pc = (if readV x s = readV y s then s.pc + 2 else s.pc) ∧
      KeepsAllBut [.pc] s t) ∧
    (∃ t, exec (.sneReg x y) s = .next t ∧ t.pc = (if readV x s ≠ readV y s then s.pc + 2 else s.pc) ∧
      KeepsAllBut [.pc] s t)

/-- R78; that the sum is not masked is the spec's decision D17 (log 18). -/
def Obligations.JumpWithOffsetAddsV0 : Prop :=
  ∀ (nnn : Addr12) (s : State),
    ∃ t, exec (.jpV0 nnn) s = .next t ∧ t.pc.toNat = nnn.toNat + (readV 0 s).toNat ∧ KeepsAllBut [.pc] s t

/-- R79: whatever a subroutine does in between, calls of its own included, so long as it leaves the live entries of the stack
as it found them (dead ones, R14, may differ), `RET` goes back to the instruction after the matching `CALL`. -/
def Obligations.ReturnGoesBackAfterTheCall : Prop :=
  ∀ (nnn : Addr12) (s t u : State), exec (.call nnn) s = .next t → u.sp = t.sp →
    (∀ k, k < t.sp.toNat → u.stack[k]? = t.stack[k]?) →
    ∃ w, exec .ret u = .next w ∧ w.pc = s.pc ∧ w.sp = s.sp

/-- R73: "exactly 16 calls without return succeed; the 17th call fails `StackOverflow`". -/
def Obligations.SixteenCallsThenOverflow : Prop :=
  ∀ (targets : List Addr12) (s : State), s.sp = 0 → targets.length = 16 →
    ∃ t, execAll (targets.map Instr.call) s = .next t ∧ t.sp.toNat = 16 ∧
      ∀ nnn, exec (.call nnn) (advance t) = .fault .stackOverflow

/-! ## Loads and arithmetic -/

/-- R80. -/
def Obligations.LoadImmediateWritesKK : Prop :=
  ∀ (x : Nibble) (kk : Byte) (s : State),
    decode (wordXKK 0x6 x kk) = .ok (.ldImm x kk) ∧
    ∃ t, exec (.ldImm x kk) s = .next t ∧ readV x t = kk ∧ KeepsRegsBut [x] s t ∧ KeepsAllBut [.v] s t

/-- R81: modulo 256, and no flag: VF is kept unless it is the destination. -/
def Obligations.AddImmediateWrapsWithoutFlag : Prop :=
  ∀ (x : Nibble) (kk : Byte) (s : State),
    decode (wordXKK 0x7 x kk) = .ok (.addImm x kk) ∧
    ∃ t, exec (.addImm x kk) s = .next t ∧ (readV x t).toNat = ((readV x s).toNat + kk.toNat) % 256 ∧
      KeepsRegsBut [x] s t ∧ KeepsAllBut [.v] s t

/-- R82; the code n = 0 is the spec's decision D12 (log 14). -/
def Obligations.LoadRegisterCopies : Prop :=
  ∀ (x y : Nibble) (s : State),
    decode (wordXYN 0x8 x y 0x0) = .ok (.ldReg x y) ∧
    ∃ t, exec (.ldReg x y) s = .next t ∧ readV x t = readV y s ∧ KeepsRegsBut [x] s t ∧ KeepsAllBut [.v] s t

/-- R83, R84, R85, bit by bit; that VF is kept is the spec's decision D14 (log 15). -/
def Obligations.LogicIsBitwiseWithoutFlag : Prop :=
  ∀ (x y : Nibble) (s : State),
    (∃ t, exec (.orReg x y) s = .next t ∧ KeepsRegsBut [x] s t ∧ KeepsAllBut [.v] s t ∧
      ∀ k, k < 8 → (readV x t).getLsbD k = ((readV x s).getLsbD k || (readV y s).getLsbD k)) ∧
    (∃ t, exec (.andReg x y) s = .next t ∧ KeepsRegsBut [x] s t ∧ KeepsAllBut [.v] s t ∧
      ∀ k, k < 8 → (readV x t).getLsbD k = ((readV x s).getLsbD k && (readV y s).getLsbD k)) ∧
    (∃ t, exec (.xorReg x y) s = .next t ∧ KeepsRegsBut [x] s t ∧ KeepsAllBut [.v] s t ∧
      ∀ k, k < 8 → (readV x t).getLsbD k = ((readV x s).getLsbD k ^^ (readV y s).getLsbD k))

/-- R86, R92: the sum modulo 256 and the carry; that the flag is written last, so that it wins when x is VF, is the spec's
decision D15 (log 16). -/
def Obligations.AddRegisterSetsCarry : Prop :=
  ∀ (x y : Nibble) (s : State),
    ∃ t, exec (.addReg x y) s = .next t ∧
      (x ≠ vf → (readV x t).toNat = ((readV x s).toNat + (readV y s).toNat) % 256) ∧
      readV vf t = (if (readV x s).toNat + (readV y s).toNat > 255 then 1 else 0) ∧
      KeepsRegsBut [x, vf] s t ∧ KeepsAllBut [.v] s t

/-- R87, R89, R92: the difference modulo 256 and the not-borrow, both ways round; the order of the writes is the spec's
decision D15 (log 16). -/
def Obligations.SubtractionsSetNotBorrow : Prop :=
  ∀ (x y : Nibble) (s : State),
    (∃ t, exec (.subReg x y) s = .next t ∧
      (x ≠ vf → (readV x t).toNat =
        if (readV y s).toNat ≤ (readV x s).toNat then (readV x s).toNat - (readV y s).toNat
        else (readV x s).toNat + 256 - (readV y s).toNat) ∧
      readV vf t = (if (readV y s).toNat ≤ (readV x s).toNat then 1 else 0) ∧
      KeepsRegsBut [x, vf] s t ∧ KeepsAllBut [.v] s t) ∧
    (∃ t, exec (.subnReg x y) s = .next t ∧
      (x ≠ vf → (readV x t).toNat =
        if (readV x s).toNat ≤ (readV y s).toNat then (readV y s).toNat - (readV x s).toNat
        else (readV y s).toNat + 256 - (readV x s).toNat) ∧
      readV vf t = (if (readV x s).toNat ≤ (readV y s).toNat then 1 else 0) ∧
      KeepsRegsBut [x, vf] s t ∧ KeepsAllBut [.v] s t)

/-- R88, R90, for either value of the parameter `SHIFT_SRC` the machine is run with (D13, log 7); the order of the writes
is the spec's decision D15 (log 16). -/
def Obligations.ShiftsMoveOneBitIntoVF : Prop :=
  ∀ (x y : Nibble) (s : State) (a : Byte), (a = match s.shiftSrc with | .vx => readV x s | .vy => readV y s) →
    (∃ t, exec (.shr x y) s = .next t ∧
      (x ≠ vf → (readV x t).toNat = a.toNat / 2) ∧
      readV vf t = (if a.toNat % 2 = 1 then 1 else 0) ∧
      KeepsRegsBut [x, vf] s t ∧ KeepsAllBut [.v] s t) ∧
    (∃ t, exec (.shl x y) s = .next t ∧
      (x ≠ vf → (readV x t).toNat = a.toNat * 2 % 256) ∧
      readV vf t = (if 128 ≤ a.toNat then 1 else 0) ∧
      KeepsRegsBut [x, vf] s t ∧ KeepsAllBut [.v] s t)

/-- R5, R22 (the parameter is D13, its place in the state the model's, log 7): no operation changes `SHIFT_SRC`, and no
instruction but the two shifts depends on it. -/
def Obligations.ShiftSrcIsAFixedParameter : Prop :=
  (∀ (op : HostOp) (s : State), (call op s).1.shiftSrc = s.shiftSrc) ∧
  (∀ s t : State, step s = .next t → t.shiftSrc = s.shiftSrc) ∧
  ∀ (i : Instr) (s : State) (c : Config.ShiftSrc), (∀ x y, i ≠ .shr x y ∧ i ≠ .shl x y) →
    (∀ t, exec i s = .next t → exec i (withShiftSrc c s) = .next (withShiftSrc c t)) ∧
    (∀ f, exec i s = .fault f → exec i (withShiftSrc c s) = .fault f)

/-- R95: the draw AND kk, for the draw the host gives and, where it gives none, for whatever the free value is (D22, log 2). -/
def Obligations.RandomIsTheDrawMasked : Prop :=
  ∀ (x : Nibble) (kk : Byte) (s : State),
    ∃ t, exec (.rnd x kk) s = .next t ∧ readV x t = draw s &&& kk ∧ readV x t &&& ~~~kk = 0 ∧
      (∀ r, s.rnd = some r → readV x t = r &&& kk ∧ t.draws = s.draws) ∧
      (s.rnd = none → t.draws = s.draws + 1) ∧
      KeepsRegsBut [x] s t ∧ KeepsAllBut [.v, .draws] s t

/-! ## Index register and memory -/

/-- R100. -/
def Obligations.LoadIndexZeroExtends : Prop :=
  ∀ (nnn : Addr12) (s : State),
    decode (wordNNN 0xA nnn) = .ok (.ldI nnn) ∧
    ∃ t, exec (.ldI nnn) s = .next t ∧ t.i.toNat = nnn.toNat ∧ KeepsAllBut [.i] s t

/-- R101: modulo 2^16 and no flag is the spec's decision D16 (log 17). -/
def Obligations.AddIndexWrapsAtSixteenBits : Prop :=
  ∀ (x : Nibble) (s : State),
    ∃ t, exec (.addI x) s = .next t ∧ t.i.toNat = (s.i.toNat + (readV x s).toNat) % 65536 ∧ KeepsAllBut [.i] s t

/-- R102: the glyph of the low nibble, 5 bytes apart; where the font lies is the spec's decision D6 (log 8). -/
def Obligations.FontAddressOfLowNibble : Prop :=
  ∀ (x : Nibble) (s : State),
    ∃ t, exec (.ldF x) s = .next t ∧ t.i.toNat = fontBase + 5 * ((readV x s).toNat % 16) ∧ KeepsAllBut [.i] s t

/-- R103: the three digits at I, I+1, I+2, and they are the number; that I is kept is the spec's decision D18 (log 19). -/
def Obligations.DecimalDigitsAreStored : Prop :=
  ∀ (x : Nibble) (s : State), s.i.toNat + 2 < 4096 →
    ∃ t, exec (.ldB x) s = .next t ∧
      (readByte s.i.toNat t).toNat * 100 + (readByte (s.i.toNat + 1) t).toNat * 10 + (readByte (s.i.toNat + 2) t).toNat
        = (readV x s).toNat ∧
      (readByte (s.i.toNat + 1) t).toNat < 10 ∧ (readByte (s.i.toNat + 2) t).toNat < 10 ∧
      KeepsBytesOutside (baseI s) 3 s t ∧ KeepsAllBut [.mem] s t

/-- R104: V0 to Vx at I to I+x; that I is kept is the spec's decision D18 (log 19). -/
def Obligations.RegistersAreStored : Prop :=
  ∀ (x : Nibble) (s : State), s.i.toNat + x.toNat < 4096 →
    ∃ t, exec (.ldMemVx x) s = .next t ∧
      (∀ r : Nibble, r.toNat ≤ x.toNat → readByte (s.i.toNat + r.toNat) t = readV r s) ∧
      KeepsBytesOutside (baseI s) (x.toNat + 1) s t ∧ KeepsAllBut [.mem] s t

/-- R105: the bytes at I to I+x in V0 to Vx, the registers above kept; that I is kept is the spec's decision D18 (log 19). -/
def Obligations.RegistersAreLoaded : Prop :=
  ∀ (x : Nibble) (s : State), s.i.toNat + x.toNat < 4096 →
    ∃ t, exec (.ldVxMem x) s = .next t ∧
      (∀ r : Nibble, r.toNat ≤ x.toNat → readV r t = readByte (s.i.toNat + r.toNat) s) ∧
      (∀ r : Nibble, x.toNat < r.toNat → readV r t = readV r s) ∧ KeepsAllBut [.v] s t

/-- R33, R45, R107 (the error's name and argument are the spec's decisions D3, D5, log 26; that the whole range is checked
first is D4, log 25): the four memory instructions fail when their range passes 4095. -/
def Obligations.RangesPastTheEndFault : Prop :=
  ∀ (x y n : Nibble) (s : State),
    (4096 ≤ s.i.toNat + 2 → exec (.ldB x) s = .fault (.memoryOutOfRange (max s.i.toNat 4096))) ∧
    (4096 ≤ s.i.toNat + x.toNat → exec (.ldMemVx x) s = .fault (.memoryOutOfRange (max s.i.toNat 4096))) ∧
    (4096 ≤ s.i.toNat + x.toNat → exec (.ldVxMem x) s = .fault (.memoryOutOfRange (max s.i.toNat 4096))) ∧
    (0 < n.toNat → 4096 < s.i.toNat + n.toNat → exec (.drw x y n) s = .fault (.memoryOutOfRange (max s.i.toNat 4096)))

/-- S6, from R104 and R105: a store of V0 to Vx and a load of the same range, whatever the registers became in between,
gives V0 to Vx their values back. It needs I kept by the store (D18, log 19). -/
def Obligations.StoreThenLoadRestoresRegisters : Prop :=
  ∀ (x : Nibble) (s t u : State), exec (.ldMemVx x) s = .next t → u.i = t.i → u.mem = t.mem →
    ∃ w, exec (.ldVxMem x) u = .next w ∧ ∀ r : Nibble, r.toNat ≤ x.toNat → readV r w = readV r s

/-- R43 (the spec's decision D24, log 24): the next fetch, odd pc included (R35), reads memory as the instruction left it: the
bytes LD [I], Vx and LD B, Vx stored wherever the two fetched bytes overlap their range, be it in one byte, else the old ones. -/
def Obligations.StoreIsSeenByTheNextFetch : Prop :=
  ∀ (i : Instr) (s t u : State), exec i s = .next t → u.mem = t.mem → u.pc.toNat ≤ 4094 →
    (∀ x, i = .ldMemVx x → fetch u = some (wordOfBytes
      (byteAfterStore (baseI s) ((List.range (x.toNat + 1)).map fun k => readV (BitVec.ofNat 4 k) s) s u.pc.toNat)
      (byteAfterStore (baseI s) ((List.range (x.toNat + 1)).map fun k => readV (BitVec.ofNat 4 k) s) s (u.pc.toNat + 1)))) ∧
    (∀ x, i = .ldB x → fetch u = some (wordOfBytes
      (byteAfterStore (baseI s) [BitVec.ofNat 8 ((readV x s).toNat / 100), BitVec.ofNat 8 ((readV x s).toNat / 10 % 10),
        BitVec.ofNat 8 ((readV x s).toNat % 10)] s u.pc.toNat)
      (byteAfterStore (baseI s) [BitVec.ofNat 8 ((readV x s).toNat / 100), BitVec.ofNat 8 ((readV x s).toNat / 10 % 10),
        BitVec.ofNat 8 ((readV x s).toNat % 10)] s (u.pc.toNat + 1)))) ∧
    ((∀ x, i ≠ .ldMemVx x ∧ i ≠ .ldB x) →
      fetch u = some (wordOfBytes (readByte u.pc.toNat s) (readByte (u.pc.toNat + 1) s)))

/-- The canonical form means that equal memories are equal data (log 10). -/
def Obligations.CanonicalMemoriesAreEqualData : Prop :=
  ∀ m n : Memory, Memory.wf m → Memory.wf n → (∀ a, m.read a = n.read a) → m = n

/-! ## Display -/

/-- R110. -/
def Obligations.ClearTurnsEveryCellOff : Prop :=
  ∀ s : State, decode 0x00E0 = .ok .cls ∧
    ∃ t, exec .cls s = .next t ∧ (∀ x y, cell x y t.disp = false) ∧ KeepsAllBut [.disp] s t

/-- R111, R112: the loop of R111 flips exactly the cells the sprite's 1 bits cover, with wraparound, and VF says whether
one of them was on. Bit 7 leftmost and n = 0 are the spec's decision D19 (log 20). -/
def Obligations.DrawFlipsTheCoveredCells : Prop :=
  ∀ (x y n : Nibble) (s : State), n.toNat = 0 ∨ s.i.toNat + n.toNat ≤ 4096 →
    ∃ t, exec (.drw x y n) s = .next t ∧
      (∀ px py, px < 64 → py < 32 →
        (Covers s (baseI s) n.toNat (readV x s).toNat (readV y s).toNat px py → cell px py t.disp = !cell px py s.disp) ∧
        (¬ Covers s (baseI s) n.toNat (readV x s).toNat (readV y s).toNat px py → cell px py t.disp = cell px py s.disp)) ∧
      (readV vf t = 1 ∨ readV vf t = 0) ∧
      (readV vf t = 1 ↔ ∃ px py, px < 64 ∧ py < 32 ∧
        Covers s (baseI s) n.toNat (readV x s).toNat (readV y s).toNat px py ∧ cell px py s.disp = true) ∧
      KeepsRegsBut [vf] s t ∧ KeepsAllBut [.v, .disp] s t

/-- R113 (a), (b), as C13 makes it exact: drawing the same sprite again at the same place restores the display, and the
second flag says whether a covered cell was on before the second draw. -/
def Obligations.DrawingTwiceRestoresTheDisplay : Prop :=
  ∀ (x y n : Nibble) (s t u : State), exec (.drw x y n) s = .next t →
    u.i = s.i → u.mem = s.mem → u.disp = t.disp → readV x u = readV x s → readV y u = readV y s →
    ∃ w, exec (.drw x y n) u = .next w ∧ (∀ px py, cell px py w.disp = cell px py s.disp) ∧
      (readV vf w = 1 ↔ ∃ px py, px < 64 ∧ py < 32 ∧
        Covers s (baseI s) n.toNat (readV x s).toNat (readV y s).toNat px py ∧ cell px py t.disp = true)

/-- R151: 2048 cells, cell (x, y) at index 64*y + x; the layout is the spec's decision D30 (log 27). -/
def Obligations.ReadDisplayListsRowByRow : Prop :=
  ∀ s : State, (readDisplay s).length = 2048 ∧
    ∀ x y, x < 64 → y < 32 → (readDisplay s)[64 * y + x]? = some (cell x y s.disp)

/-! ## Keypad and wait -/

/-- R120, R121; the key is the low nibble by the spec's decision D20 (log 21). -/
def Obligations.KeySkipsTestTheLowNibble : Prop :=
  ∀ (x : Nibble) (s : State) (k : Nibble), k.toNat = (readV x s).toNat % 16 →
    (∃ t, exec (.skp x) s = .next t ∧ t.pc = (if keyPressed k s = true then s.pc + 2 else s.pc) ∧ KeepsAllBut [.pc] s t) ∧
    (∃ t, exec (.sknp x) s = .next t ∧ t.pc = (if keyPressed k s = false then s.pc + 2 else s.pc) ∧ KeepsAllBut [.pc] s t)

/-- R122 (latch and sub-state are the spec's decision D21, log 22): the wait is entered, Vx is not written, and the tick
leaves pc at the instruction. -/
def Obligations.WaitForKeyIsEntered : Prop :=
  ∀ (x : Nibble) (s : State),
    (∃ t, exec (.ldVxK x) s = .next t ∧ t.wait = .awaitingKey x ∧ t.keyLatch = none ∧ t.pc = s.pc - 2 ∧
      KeepsAllBut [.wait, .keyLatch, .pc] s t) ∧
    (s.wait = .running → fetch s = some (wordXKK 0xF x 0x0A) →
      ∃ t, tick s = .next t ∧ t.wait = .awaitingKey x ∧ t.keyLatch = none ∧ KeepsAllBut [.wait, .keyLatch] s t)

/-- R123 (the spec's decision D21, log 22): a latched key resolves the wait; without one the tick changes nothing. -/
def Obligations.WaitTickResolvesOrRepeats : Prop :=
  ∀ (x : Nibble) (s : State), s.wait = .awaitingKey x →
    (s.keyLatch = none → tick s = .next s) ∧
    (∀ k, s.keyLatch = some k → ∃ t, tick s = .next t ∧ (readV x t).toNat = k.toNat ∧ t.wait = .running ∧
      t.keyLatch = none ∧ t.pc = s.pc + 2 ∧ KeepsRegsBut [x] s t ∧ KeepsAllBut [.v, .wait, .keyLatch, .pc] s t)

/-- R148 (the latch is the spec's decision D21, log 22). -/
def Obligations.KeypressRecordsAndLatches : Prop :=
  ∀ (k : Nibble) (p : Bool) (s : State),
    (∀ j, keyPressed j (keypress k p s) = if j = k then p else keyPressed j s) ∧
    KeepsAllBut [.keys, .keyLatch] s (keypress k p s) ∧
    ((∃ x, s.wait = .awaitingKey x) → s.keyLatch = none → p = true → keyPressed k s = false →
      (keypress k p s).keyLatch = some k) ∧
    ((s.wait = .running ∨ s.keyLatch ≠ none ∨ p = false ∨ keyPressed k s = true) →
      (keypress k p s).keyLatch = s.keyLatch)

/-- R123, R128, R155 (first wins is the spec's decision D21, log 22): the first 0-to-1 transition of a wait is the one that
resolves it, whatever key and timer events come between it and the next tick. -/
def Obligations.FirstPressResolvesTheWait : Prop :=
  ∀ (x k : Nibble) (s : State) (events : List HostOp), s.wait = .awaitingKey x → s.keyLatch = none →
    keyPressed k s = false → (∀ e ∈ events, isEvent e = true) →
    ∃ t, tick (callAll events (keypress k true s)) = .next t ∧ (readV x t).toNat = k.toNat ∧ t.wait = .running ∧
      t.pc = s.pc + 2

/-! ## Timers -/

/-- R124, R125, R126. -/
def Obligations.TimerRegistersAreMoved : Prop :=
  ∀ (x : Nibble) (s : State),
    decode (wordXKK 0xF x 0x07) = .ok (.ldVxDt x) ∧ decode (wordXKK 0xF x 0x15) = .ok (.ldDtVx x) ∧
    decode (wordXKK 0xF x 0x18) = .ok (.ldStVx x) ∧
    (∃ t, exec (.ldVxDt x) s = .next t ∧ readV x t = s.dt ∧ KeepsRegsBut [x] s t ∧ KeepsAllBut [.v] s t) ∧
    (∃ t, exec (.ldDtVx x) s = .next t ∧ t.dt = readV x s ∧ KeepsAllBut [.dt] s t) ∧
    (∃ t, exec (.ldStVx x) s = .next t ∧ t.st = readV x s ∧ KeepsAllBut [.st] s t)

/-- R145. -/
def Obligations.TimerTickDecrementsNonzeroTimers : Prop :=
  ∀ s : State,
    (0 < s.dt.toNat → (tickTimers s).dt.toNat = s.dt.toNat - 1) ∧ (s.dt.toNat = 0 → (tickTimers s).dt.toNat = 0) ∧
    (0 < s.st.toNat → (tickTimers s).st.toNat = s.st.toNat - 1) ∧ (s.st.toNat = 0 → (tickTimers s).st.toNat = 0) ∧
    KeepsAllBut [.dt, .st] s (tickTimers s)

/-- S4, from R145: N calls decrease a timer of value V by min(V, N), so no timer wraps. -/
def Obligations.TimersFallByMinOfValueAndCalls : Prop :=
  ∀ (n : Nat) (s : State),
    (tickTimers^[n] s).dt.toNat = s.dt.toNat - min s.dt.toNat n ∧
    (tickTimers^[n] s).st.toNat = s.st.toNat - min s.st.toNat n

/-- R67: a tick never decrements a timer (it changes one only where the fetched instruction loads it), never writes `keys`,
and writes `key_latch` only to clear it. -/
def Obligations.TicksLeaveTimersAndKeys : Prop :=
  ∀ s t : State, tick s = .next t →
    SamePart .keys s t ∧ (t.keyLatch = s.keyLatch ∨ t.keyLatch = none) ∧
    (t.dt = s.dt ∨ ∃ x, fetch s = some (wordXKK 0xF x 0x15) ∧ t.dt = readV x s) ∧
    (t.st = s.st ∨ ∃ x, fetch s = some (wordXKK 0xF x 0x18) ∧ t.st = readV x s)

/-! ## Host operations -/

/-- R26, R160, R161, R162: every element of the spec's state after reset, from any state, twice as once, and at power-on.
That all memory is zeroed is the spec's decision D8 (log 10), power-on D32 and the wait D21 (log 11), where the font lies
and its bytes D6, D7 (log 8, 9). -/
def Obligations.ResetGivesTheResetState : Prop :=
  ∀ s : State,
    (∀ r, readV r (hostReset s) = 0) ∧ (hostReset s).i = 0 ∧ (hostReset s).pc = 0x200 ∧ (hostReset s).sp = 0 ∧
    (∀ k, k < 16 → (hostReset s).stack[k]? = some 0) ∧ (hostReset s).dt = 0 ∧ (hostReset s).st = 0 ∧
    (∀ x y, cell x y (hostReset s).disp = false) ∧ (∀ k, keyPressed k (hostReset s) = false) ∧
    (hostReset s).wait = .running ∧ (hostReset s).keyLatch = none ∧
    (∀ a, a < 80 → readByte (fontBase + a) (hostReset s) = fontData.getD a 0) ∧
    (∀ a, a < fontBase ∨ fontBase + 80 ≤ a → readByte a (hostReset s) = 0) ∧
    hostReset (hostReset s) = hostReset s ∧ hostReset State.reset = State.reset ∧
    KeepsAllBut [.mem, .v, .i, .pc, .sp, .stack, .dt, .st, .disp, .keys, .wait, .keyLatch] s (hostReset s)

/-- R163, R164 (D4, D9; logs 25, 27): a copy to 0x200 and nothing else, or `ImageTooLarge`; at launch the host's `load` is
this operation (R165, R166), at another moment the model has no move for it (U9, log 4). -/
def Obligations.LoadCopiesTheImage : Prop :=
  ∀ (img : List Byte) (s : State),
    (img.length ≤ 3584 → ∃ t, load img s = .next t ∧
      (∀ j, j < img.length → img[j]? = some (readByte (0x200 + j) t)) ∧
      KeepsBytesOutside 0x200 img.length s t ∧ KeepsAllBut [.mem] s t) ∧
    (3584 < img.length → load img s = .fault (.imageTooLarge img.length)) ∧
    serve (.load img) (hostReset s) = load img (hostReset s) ∧
    (s ≠ hostReset s → serve (.load img) s = .refused .loadOutsideLaunch)

/-! ## Rules of the whole machine -/

/-- R21, R11, R12, R18, R19, R20, R36: no instruction writes a part of the state, or a register, that its rule does not
name; stores change no byte outside their range by `DecimalDigitsAreStored` and `RegistersAreStored`. -/
def Obligations.InstructionsWriteOnlyTheirParts : Prop :=
  ∀ (i : Instr) (s t : State), exec i s = .next t →
    KeepsAllBut (mayWrite i) s t ∧ KeepsRegsBut (mayWriteRegs i) s t

/-- R68: no instruction but RND depends on the draw; none depends on the calls the host still makes (the model's own
fields, log 2, 3). -/
def Obligations.OnlyRandomReadsTheDraw : Prop :=
  ∀ (i : Instr) (s : State) (h : List HostOp) (r : Option Byte) (d : Nat), (∀ x kk, i ≠ .rnd x kk) →
    (∀ t, exec i s = .next t → exec i (withInputs h r d s) = .next (withInputs h r d t)) ∧
    (∀ f, exec i s = .fault f → exec i (withInputs h r d s) = .fault f) ∧
    (∀ e, exec i s ≠ .refused e)

/-- R174 (the spec's convention, D34): at a jump to itself every tick answers a next state and changes nothing. -/
def Obligations.JumpToItselfEndsTheRun : Prop :=
  ∀ (s : State) (r : Option Byte), EndedNormally s → tick (withDraw r s) = .next (withDraw r s)

/-- R23: the reset state meets the invariant. -/
def Obligations.ResetMeetsTheInvariant : Prop := MachineInv State.reset

/-- R23: every step keeps the invariant, from every state that meets it, whatever the host still calls. -/
def Obligations.StepKeepsTheInvariant : Prop := ∀ s t : State, MachineInv s → step s = .next t → MachineInv t

/-- R23, R131, R134, R137: every host operation keeps the invariant, one that returned an error included, so every state a
host can reach by any interleaving of calls meets it. -/
def Obligations.EveryInterleavingKeepsTheInvariant : Prop :=
  ∀ (ops : List HostOp) (s : State), MachineInv s → MachineInv (callAll ops s)
end

