-- ==== Sys2Proof/Laws/Decode.lean ====
section
/-! SUPPORT. The fields of a word laid out by the three formats (30_encoding.md R47, R48). -/

namespace Sys2Proof

/-- Concatenation as arithmetic: the left part in the high bits (00_scope.md R6). -/
theorem append_toNat {m n : Nat} (a : BitVec m) (b : BitVec n) :
    (a ++ b).toNat = a.toNat * 2 ^ n + b.toNat := by
  rw [BitVec.toNat_append, ← Nat.shiftLeft_add_eq_or_of_lt b.isLt, Nat.shiftLeft_eq]

theorem wordNNN_toNat (a : Nibble) (nnn : Addr12) : (wordNNN a nnn).toNat = a.toNat * 4096 + nnn.toNat :=
  append_toNat a nnn

theorem wordXKK_toNat (a x : Nibble) (kk : Byte) :
    (wordXKK a x kk).toNat = a.toNat * 4096 + x.toNat * 256 + kk.toNat :=
  (append_toNat (a ++ x) kk).trans (by rw [append_toNat]; omega)

theorem wordXYN_toNat (a x y n : Nibble) :
    (wordXYN a x y n).toNat = a.toNat * 4096 + x.toNat * 256 + y.toNat * 16 + n.toNat :=
  (append_toNat (a ++ x ++ y) n).trans (by rw [append_toNat, append_toNat]; omega)

theorem fieldN3_toNat (op : Word) : (fieldN3 op).toNat = op.toNat / 4096 := by
  have := op.isLt
  simp [fieldN3, Nat.shiftRight_eq_div_pow]; omega

theorem fieldX_toNat (op : Word) : (fieldX op).toNat = op.toNat / 256 % 16 := by
  simp [fieldX, Nat.shiftRight_eq_div_pow]

theorem fieldY_toNat (op : Word) : (fieldY op).toNat = op.toNat / 16 % 16 := by
  simp [fieldY, Nat.shiftRight_eq_div_pow]

theorem fieldN_toNat (op : Word) : (fieldN op).toNat = op.toNat % 16 := by simp [fieldN]

theorem fieldKK_toNat (op : Word) : (fieldKK op).toNat = op.toNat % 256 := by simp [fieldKK]

theorem fieldNNN_toNat (op : Word) : (fieldNNN op).toNat = op.toNat % 4096 := by simp [fieldNNN]

/-! ## The fields of a word laid out by a format are the fields it was laid out from -/

section
variable (a x y n : Nibble) (kk : Byte) (nnn : Addr12)

@[simp] theorem fieldN3_wordNNN : fieldN3 (wordNNN a nnn) = a := by
  apply BitVec.eq_of_toNat_eq
  rw [fieldN3_toNat, wordNNN_toNat]
  have := nnn.isLt; omega

@[simp] theorem fieldNNN_wordNNN : fieldNNN (wordNNN a nnn) = nnn := by
  apply BitVec.eq_of_toNat_eq
  rw [fieldNNN_toNat, wordNNN_toNat]
  have := nnn.isLt; omega

@[simp] theorem fieldN3_wordXKK : fieldN3 (wordXKK a x kk) = a := by
  apply BitVec.eq_of_toNat_eq
  rw [fieldN3_toNat, wordXKK_toNat]
  have := kk.isLt; have := x.isLt; omega

@[simp] theorem fieldX_wordXKK : fieldX (wordXKK a x kk) = x := by
  apply BitVec.eq_of_toNat_eq
  rw [fieldX_toNat, wordXKK_toNat]
  have := kk.isLt; have := x.isLt; omega

@[simp] theorem fieldKK_wordXKK : fieldKK (wordXKK a x kk) = kk := by
  apply BitVec.eq_of_toNat_eq
  rw [fieldKK_toNat, wordXKK_toNat]
  have := kk.isLt; omega

@[simp] theorem fieldN3_wordXYN : fieldN3 (wordXYN a x y n) = a := by
  apply BitVec.eq_of_toNat_eq
  rw [fieldN3_toNat, wordXYN_toNat]
  have := n.isLt; have := y.isLt; have := x.isLt; omega

@[simp] theorem fieldX_wordXYN : fieldX (wordXYN a x y n) = x := by
  apply BitVec.eq_of_toNat_eq
  rw [fieldX_toNat, wordXYN_toNat]
  have := n.isLt; have := y.isLt; have := x.isLt; omega

@[simp] theorem fieldY_wordXYN : fieldY (wordXYN a x y n) = y := by
  apply BitVec.eq_of_toNat_eq
  rw [fieldY_toNat, wordXYN_toNat]
  have := n.isLt; have := y.isLt; omega

@[simp] theorem fieldN_wordXYN : fieldN (wordXYN a x y n) = n := by
  apply BitVec.eq_of_toNat_eq
  rw [fieldN_toNat, wordXYN_toNat]
  have := n.isLt; omega

end

/-! ## A word is laid out from its fields by each format -/

theorem wordNNN_fields (op : Word) : wordNNN (fieldN3 op) (fieldNNN op) = op := by
  apply BitVec.eq_of_toNat_eq
  rw [wordNNN_toNat, fieldNNN_toNat, fieldN3_toNat]; omega

theorem wordXKK_fields (op : Word) : wordXKK (fieldN3 op) (fieldX op) (fieldKK op) = op := by
  apply BitVec.eq_of_toNat_eq
  rw [wordXKK_toNat, fieldX_toNat, fieldN3_toNat, fieldKK_toNat]; omega

theorem wordXYN_fields (op : Word) : wordXYN (fieldN3 op) (fieldX op) (fieldY op) (fieldN op) = op := by
  apply BitVec.eq_of_toNat_eq
  rw [wordXYN_toNat, fieldX_toNat, fieldY_toNat, fieldN3_toNat, fieldN_toNat]; omega

/-- The sixteen values of a nibble: a case split on a family selector, after which `decode` computes. -/
theorem nibble_cases (n : Nibble) :
    n = 0x0 ∨ n = 0x1 ∨ n = 0x2 ∨ n = 0x3 ∨ n = 0x4 ∨ n = 0x5 ∨ n = 0x6 ∨ n = 0x7 ∨
    n = 0x8 ∨ n = 0x9 ∨ n = 0xA ∨ n = 0xB ∨ n = 0xC ∨ n = 0xD ∨ n = 0xE ∨ n = 0xF := by
  revert n; decide

/-- A word is an instruction's or is rejected as itself: the decoder is total and names what it rejects (R52). -/
theorem decode_total (op : Word) : (∃ i, decode op = .ok i) ∨ decode op = .error (.illegalOpcode op) := by
  unfold decode decodeFamily0 decodeFamily8 decodeFamilyE decodeFamilyF
  repeat' split
  all_goals simp

/-- The fetched word is big-endian (20_memory.md R34). -/
theorem wordOfBytes_toNat (hi lo : Byte) : (wordOfBytes hi lo).toNat = hi.toNat * 256 + lo.toNat :=
  append_toNat hi lo

end Sys2Proof
end

