-- ==== Sys2Proof/Laws/Memory.lean ====
section
/-! SUPPORT. The laws of the memory: read after write for every list of cells, and that every operation keeps the canonical form. -/

namespace Sys2Proof.Machine

@[simp] theorem Memory.read_nil (a : Nat) : Memory.read [] a = resetByte a := rfl

theorem Memory.read_insert (m : Memory) (a : Nat) (v : Byte) (c : Nat) :
    (m.insert a v).read c = if c = a then v else m.read c := by
  induction m with
  | nil => simp [Memory.insert, Memory.read]
  | cons e rest ih =>
    obtain ⟨b, w⟩ := e
    simp only [Memory.insert]
    split
    · simp [Memory.read]
    · split
      · subst_vars; by_cases h : c = b <;> simp [Memory.read, h]
      · by_cases h : c = b
        · subst h; simp [Memory.read]; intro h'; omega
        · simp [Memory.read, h, ih]

theorem Memory.read_filter (m : Memory) (a c : Nat) :
    Memory.read (m.filter (fun e => e.1 != a)) c = if c = a then resetByte a else m.read c := by
  induction m with
  | nil => by_cases h : c = a <;> simp [h]
  | cons e rest ih =>
    obtain ⟨b, w⟩ := e
    by_cases hb : b = a
    · subst hb
      by_cases h : c = b
      · subst h; simpa using ih
      · simp [Memory.read, h, ih]
    · simp only [ne_eq, hb, not_false_eq_true, bne_iff_ne, List.filter_cons_of_pos, Memory.read]
      by_cases h : c = b
      · subst h; simp [hb]
      · simp [h, ih]

/-- Read after write: the byte written at its address, every other byte as before. -/
@[simp] theorem Memory.read_write (m : Memory) (a : Nat) (v : Byte) (c : Nat) :
    (m.write a v).read c = if c = a then v else m.read c := by
  unfold Memory.write
  split
  · rename_i h; rw [Memory.read_filter, h]
  · exact Memory.read_insert m a v c

theorem Memory.mem_insert {m : Memory} {a : Nat} {v : Byte} {e : Host.Cell} (h : e ∈ m.insert a v) :
    e = (a, v) ∨ e ∈ m := by
  induction m with
  | nil => simpa [Memory.insert] using h
  | cons d rest ih =>
    obtain ⟨b, w⟩ := d
    simp only [Memory.insert] at h
    split at h
    · simpa using h
    · split at h
      · simp only [List.mem_cons] at h ⊢; tauto
      · simp only [List.mem_cons] at h ⊢
        rcases h with h | h
        · exact .inr (.inl h)
        · exact (ih h).imp_right .inr

theorem Memory.insert_pairwise {m : Memory} (a : Nat) (v : Byte) (h : m.Pairwise (fun c d => c.1 < d.1)) :
    (m.insert a v).Pairwise (fun c d => c.1 < d.1) := by
  induction m with
  | nil => simp [Memory.insert]
  | cons d rest ih =>
    obtain ⟨b, w⟩ := d
    rw [List.pairwise_cons] at h
    simp only [Memory.insert]
    split
    · rename_i hab
      refine List.pairwise_cons.2 ⟨fun e he => ?_, List.pairwise_cons.2 h⟩
      rcases List.mem_cons.1 he with rfl | he
      · exact hab
      · exact Nat.lt_trans hab (h.1 e he)
    · split
      · rename_i hab; subst hab; exact List.pairwise_cons.2 h
      · refine List.pairwise_cons.2 ⟨fun e he => ?_, ih h.2⟩
        rcases Memory.mem_insert he with rfl | he
        · simp; omega
        · exact h.1 e he

/-- The empty list of cells, the reset memory, is canonical. -/
theorem Memory.wf_nil : Memory.wf [] := by simp [Memory.wf]

/-- A write inside the address space keeps the canonical form. -/
theorem Memory.wf_write {m : Memory} {a : Nat} {v : Byte} (h : m.wf) (ha : a < Config.memSize) :
    (m.write a v).wf := by
  unfold Memory.write
  split
  · exact ⟨h.1.filter _, fun c hc => h.2 c (List.mem_of_mem_filter hc)⟩
  · rename_i hv
    refine ⟨Memory.insert_pairwise a v h.1, fun c hc => ?_⟩
    rcases Memory.mem_insert hc with rfl | hc
    · exact ⟨ha, hv⟩
    · exact h.2 c hc

end Sys2Proof.Machine
end

