-- ==== Sys2Proof/Laws/State.lean ====
section
/-! SUPPORT. One lemma per field of the state per update of it, true by rfl, so that no proof unfolds a record update. -/

namespace Sys2Proof.Machine

variable (s : State)

/-! ## writeV -/

@[simp] theorem writeV_mem (x : Nibble) (b : Byte) : (writeV x b s).mem = s.mem := rfl
@[simp] theorem writeV_v (x : Nibble) (b : Byte) : (writeV x b s).v = s.v.set x.toNat b x.isLt := rfl
@[simp] theorem writeV_i (x : Nibble) (b : Byte) : (writeV x b s).i = s.i := rfl
@[simp] theorem writeV_pc (x : Nibble) (b : Byte) : (writeV x b s).pc = s.pc := rfl
@[simp] theorem writeV_sp (x : Nibble) (b : Byte) : (writeV x b s).sp = s.sp := rfl
@[simp] theorem writeV_stack (x : Nibble) (b : Byte) : (writeV x b s).stack = s.stack := rfl
@[simp] theorem writeV_dt (x : Nibble) (b : Byte) : (writeV x b s).dt = s.dt := rfl
@[simp] theorem writeV_st (x : Nibble) (b : Byte) : (writeV x b s).st = s.st := rfl
@[simp] theorem writeV_disp (x : Nibble) (b : Byte) : (writeV x b s).disp = s.disp := rfl
@[simp] theorem writeV_keys (x : Nibble) (b : Byte) : (writeV x b s).keys = s.keys := rfl
@[simp] theorem writeV_wait (x : Nibble) (b : Byte) : (writeV x b s).wait = s.wait := rfl
@[simp] theorem writeV_keyLatch (x : Nibble) (b : Byte) : (writeV x b s).keyLatch = s.keyLatch := rfl
@[simp] theorem writeV_host (x : Nibble) (b : Byte) : (writeV x b s).host = s.host := rfl
@[simp] theorem writeV_rnd (x : Nibble) (b : Byte) : (writeV x b s).rnd = s.rnd := rfl
@[simp] theorem writeV_draws (x : Nibble) (b : Byte) : (writeV x b s).draws = s.draws := rfl
@[simp] theorem writeV_shiftSrc (x : Nibble) (b : Byte) : (writeV x b s).shiftSrc = s.shiftSrc := rfl

/-! ## writeI -/

@[simp] theorem writeI_mem (w : Word) : (writeI w s).mem = s.mem := rfl
@[simp] theorem writeI_v (w : Word) : (writeI w s).v = s.v := rfl
@[simp] theorem writeI_i (w : Word) : (writeI w s).i = w := rfl
@[simp] theorem writeI_pc (w : Word) : (writeI w s).pc = s.pc := rfl
@[simp] theorem writeI_sp (w : Word) : (writeI w s).sp = s.sp := rfl
@[simp] theorem writeI_stack (w : Word) : (writeI w s).stack = s.stack := rfl
@[simp] theorem writeI_dt (w : Word) : (writeI w s).dt = s.dt := rfl
@[simp] theorem writeI_st (w : Word) : (writeI w s).st = s.st := rfl
@[simp] theorem writeI_disp (w : Word) : (writeI w s).disp = s.disp := rfl
@[simp] theorem writeI_keys (w : Word) : (writeI w s).keys = s.keys := rfl
@[simp] theorem writeI_wait (w : Word) : (writeI w s).wait = s.wait := rfl
@[simp] theorem writeI_keyLatch (w : Word) : (writeI w s).keyLatch = s.keyLatch := rfl
@[simp] theorem writeI_host (w : Word) : (writeI w s).host = s.host := rfl
@[simp] theorem writeI_rnd (w : Word) : (writeI w s).rnd = s.rnd := rfl
@[simp] theorem writeI_draws (w : Word) : (writeI w s).draws = s.draws := rfl
@[simp] theorem writeI_shiftSrc (w : Word) : (writeI w s).shiftSrc = s.shiftSrc := rfl

/-! ## jump -/

@[simp] theorem jump_mem (w : Word) : (jump w s).mem = s.mem := rfl
@[simp] theorem jump_v (w : Word) : (jump w s).v = s.v := rfl
@[simp] theorem jump_i (w : Word) : (jump w s).i = s.i := rfl
@[simp] theorem jump_pc (w : Word) : (jump w s).pc = w := rfl
@[simp] theorem jump_sp (w : Word) : (jump w s).sp = s.sp := rfl
@[simp] theorem jump_stack (w : Word) : (jump w s).stack = s.stack := rfl
@[simp] theorem jump_dt (w : Word) : (jump w s).dt = s.dt := rfl
@[simp] theorem jump_st (w : Word) : (jump w s).st = s.st := rfl
@[simp] theorem jump_disp (w : Word) : (jump w s).disp = s.disp := rfl
@[simp] theorem jump_keys (w : Word) : (jump w s).keys = s.keys := rfl
@[simp] theorem jump_wait (w : Word) : (jump w s).wait = s.wait := rfl
@[simp] theorem jump_keyLatch (w : Word) : (jump w s).keyLatch = s.keyLatch := rfl
@[simp] theorem jump_host (w : Word) : (jump w s).host = s.host := rfl
@[simp] theorem jump_rnd (w : Word) : (jump w s).rnd = s.rnd := rfl
@[simp] theorem jump_draws (w : Word) : (jump w s).draws = s.draws := rfl
@[simp] theorem jump_shiftSrc (w : Word) : (jump w s).shiftSrc = s.shiftSrc := rfl

/-! ## advance -/

@[simp] theorem advance_mem : (advance s).mem = s.mem := rfl
@[simp] theorem advance_v : (advance s).v = s.v := rfl
@[simp] theorem advance_i : (advance s).i = s.i := rfl
@[simp] theorem advance_pc : (advance s).pc = s.pc + 2 := rfl
@[simp] theorem advance_sp : (advance s).sp = s.sp := rfl
@[simp] theorem advance_stack : (advance s).stack = s.stack := rfl
@[simp] theorem advance_dt : (advance s).dt = s.dt := rfl
@[simp] theorem advance_st : (advance s).st = s.st := rfl
@[simp] theorem advance_disp : (advance s).disp = s.disp := rfl
@[simp] theorem advance_keys : (advance s).keys = s.keys := rfl
@[simp] theorem advance_wait : (advance s).wait = s.wait := rfl
@[simp] theorem advance_keyLatch : (advance s).keyLatch = s.keyLatch := rfl
@[simp] theorem advance_host : (advance s).host = s.host := rfl
@[simp] theorem advance_rnd : (advance s).rnd = s.rnd := rfl
@[simp] theorem advance_draws : (advance s).draws = s.draws := rfl
@[simp] theorem advance_shiftSrc : (advance s).shiftSrc = s.shiftSrc := rfl

/-! ## push -/

@[simp] theorem push_mem (w : Word) : (push w s).mem = s.mem := rfl
@[simp] theorem push_v (w : Word) : (push w s).v = s.v := rfl
@[simp] theorem push_i (w : Word) : (push w s).i = s.i := rfl
@[simp] theorem push_pc (w : Word) : (push w s).pc = s.pc := rfl
@[simp] theorem push_sp (w : Word) : (push w s).sp = s.sp + 1 := rfl
@[simp] theorem push_stack (w : Word) : (push w s).stack = s.stack.setIfInBounds s.sp.toNat w := rfl
@[simp] theorem push_dt (w : Word) : (push w s).dt = s.dt := rfl
@[simp] theorem push_st (w : Word) : (push w s).st = s.st := rfl
@[simp] theorem push_disp (w : Word) : (push w s).disp = s.disp := rfl
@[simp] theorem push_keys (w : Word) : (push w s).keys = s.keys := rfl
@[simp] theorem push_wait (w : Word) : (push w s).wait = s.wait := rfl
@[simp] theorem push_keyLatch (w : Word) : (push w s).keyLatch = s.keyLatch := rfl
@[simp] theorem push_host (w : Word) : (push w s).host = s.host := rfl
@[simp] theorem push_rnd (w : Word) : (push w s).rnd = s.rnd := rfl
@[simp] theorem push_draws (w : Word) : (push w s).draws = s.draws := rfl
@[simp] theorem push_shiftSrc (w : Word) : (push w s).shiftSrc = s.shiftSrc := rfl

/-! ## dropTop -/

@[simp] theorem dropTop_mem : (dropTop s).mem = s.mem := rfl
@[simp] theorem dropTop_v : (dropTop s).v = s.v := rfl
@[simp] theorem dropTop_i : (dropTop s).i = s.i := rfl
@[simp] theorem dropTop_pc : (dropTop s).pc = s.pc := rfl
@[simp] theorem dropTop_sp : (dropTop s).sp = s.sp - 1 := rfl
@[simp] theorem dropTop_stack : (dropTop s).stack = s.stack := rfl
@[simp] theorem dropTop_dt : (dropTop s).dt = s.dt := rfl
@[simp] theorem dropTop_st : (dropTop s).st = s.st := rfl
@[simp] theorem dropTop_disp : (dropTop s).disp = s.disp := rfl
@[simp] theorem dropTop_keys : (dropTop s).keys = s.keys := rfl
@[simp] theorem dropTop_wait : (dropTop s).wait = s.wait := rfl
@[simp] theorem dropTop_keyLatch : (dropTop s).keyLatch = s.keyLatch := rfl
@[simp] theorem dropTop_host : (dropTop s).host = s.host := rfl
@[simp] theorem dropTop_rnd : (dropTop s).rnd = s.rnd := rfl
@[simp] theorem dropTop_draws : (dropTop s).draws = s.draws := rfl
@[simp] theorem dropTop_shiftSrc : (dropTop s).shiftSrc = s.shiftSrc := rfl

/-! ## writeByte -/

@[simp] theorem writeByte_mem (a : Nat) (b : Byte) : (writeByte a b s).mem = s.mem.write a b := rfl
@[simp] theorem writeByte_v (a : Nat) (b : Byte) : (writeByte a b s).v = s.v := rfl
@[simp] theorem writeByte_i (a : Nat) (b : Byte) : (writeByte a b s).i = s.i := rfl
@[simp] theorem writeByte_pc (a : Nat) (b : Byte) : (writeByte a b s).pc = s.pc := rfl
@[simp] theorem writeByte_sp (a : Nat) (b : Byte) : (writeByte a b s).sp = s.sp := rfl
@[simp] theorem writeByte_stack (a : Nat) (b : Byte) : (writeByte a b s).stack = s.stack := rfl
@[simp] theorem writeByte_dt (a : Nat) (b : Byte) : (writeByte a b s).dt = s.dt := rfl
@[simp] theorem writeByte_st (a : Nat) (b : Byte) : (writeByte a b s).st = s.st := rfl
@[simp] theorem writeByte_disp (a : Nat) (b : Byte) : (writeByte a b s).disp = s.disp := rfl
@[simp] theorem writeByte_keys (a : Nat) (b : Byte) : (writeByte a b s).keys = s.keys := rfl
@[simp] theorem writeByte_wait (a : Nat) (b : Byte) : (writeByte a b s).wait = s.wait := rfl
@[simp] theorem writeByte_keyLatch (a : Nat) (b : Byte) : (writeByte a b s).keyLatch = s.keyLatch := rfl
@[simp] theorem writeByte_host (a : Nat) (b : Byte) : (writeByte a b s).host = s.host := rfl
@[simp] theorem writeByte_rnd (a : Nat) (b : Byte) : (writeByte a b s).rnd = s.rnd := rfl
@[simp] theorem writeByte_draws (a : Nat) (b : Byte) : (writeByte a b s).draws = s.draws := rfl
@[simp] theorem writeByte_shiftSrc (a : Nat) (b : Byte) : (writeByte a b s).shiftSrc = s.shiftSrc := rfl

/-! ## writeDisp -/

@[simp] theorem writeDisp_mem (d : Display) : (writeDisp d s).mem = s.mem := rfl
@[simp] theorem writeDisp_v (d : Display) : (writeDisp d s).v = s.v := rfl
@[simp] theorem writeDisp_i (d : Display) : (writeDisp d s).i = s.i := rfl
@[simp] theorem writeDisp_pc (d : Display) : (writeDisp d s).pc = s.pc := rfl
@[simp] theorem writeDisp_sp (d : Display) : (writeDisp d s).sp = s.sp := rfl
@[simp] theorem writeDisp_stack (d : Display) : (writeDisp d s).stack = s.stack := rfl
@[simp] theorem writeDisp_dt (d : Display) : (writeDisp d s).dt = s.dt := rfl
@[simp] theorem writeDisp_st (d : Display) : (writeDisp d s).st = s.st := rfl
@[simp] theorem writeDisp_disp (d : Display) : (writeDisp d s).disp = d := rfl
@[simp] theorem writeDisp_keys (d : Display) : (writeDisp d s).keys = s.keys := rfl
@[simp] theorem writeDisp_wait (d : Display) : (writeDisp d s).wait = s.wait := rfl
@[simp] theorem writeDisp_keyLatch (d : Display) : (writeDisp d s).keyLatch = s.keyLatch := rfl
@[simp] theorem writeDisp_host (d : Display) : (writeDisp d s).host = s.host := rfl
@[simp] theorem writeDisp_rnd (d : Display) : (writeDisp d s).rnd = s.rnd := rfl
@[simp] theorem writeDisp_draws (d : Display) : (writeDisp d s).draws = s.draws := rfl
@[simp] theorem writeDisp_shiftSrc (d : Display) : (writeDisp d s).shiftSrc = s.shiftSrc := rfl

/-! ## writeDt -/

@[simp] theorem writeDt_mem (b : Byte) : (writeDt b s).mem = s.mem := rfl
@[simp] theorem writeDt_v (b : Byte) : (writeDt b s).v = s.v := rfl
@[simp] theorem writeDt_i (b : Byte) : (writeDt b s).i = s.i := rfl
@[simp] theorem writeDt_pc (b : Byte) : (writeDt b s).pc = s.pc := rfl
@[simp] theorem writeDt_sp (b : Byte) : (writeDt b s).sp = s.sp := rfl
@[simp] theorem writeDt_stack (b : Byte) : (writeDt b s).stack = s.stack := rfl
@[simp] theorem writeDt_dt (b : Byte) : (writeDt b s).dt = b := rfl
@[simp] theorem writeDt_st (b : Byte) : (writeDt b s).st = s.st := rfl
@[simp] theorem writeDt_disp (b : Byte) : (writeDt b s).disp = s.disp := rfl
@[simp] theorem writeDt_keys (b : Byte) : (writeDt b s).keys = s.keys := rfl
@[simp] theorem writeDt_wait (b : Byte) : (writeDt b s).wait = s.wait := rfl
@[simp] theorem writeDt_keyLatch (b : Byte) : (writeDt b s).keyLatch = s.keyLatch := rfl
@[simp] theorem writeDt_host (b : Byte) : (writeDt b s).host = s.host := rfl
@[simp] theorem writeDt_rnd (b : Byte) : (writeDt b s).rnd = s.rnd := rfl
@[simp] theorem writeDt_draws (b : Byte) : (writeDt b s).draws = s.draws := rfl
@[simp] theorem writeDt_shiftSrc (b : Byte) : (writeDt b s).shiftSrc = s.shiftSrc := rfl

/-! ## writeSt -/

@[simp] theorem writeSt_mem (b : Byte) : (writeSt b s).mem = s.mem := rfl
@[simp] theorem writeSt_v (b : Byte) : (writeSt b s).v = s.v := rfl
@[simp] theorem writeSt_i (b : Byte) : (writeSt b s).i = s.i := rfl
@[simp] theorem writeSt_pc (b : Byte) : (writeSt b s).pc = s.pc := rfl
@[simp] theorem writeSt_sp (b : Byte) : (writeSt b s).sp = s.sp := rfl
@[simp] theorem writeSt_stack (b : Byte) : (writeSt b s).stack = s.stack := rfl
@[simp] theorem writeSt_dt (b : Byte) : (writeSt b s).dt = s.dt := rfl
@[simp] theorem writeSt_st (b : Byte) : (writeSt b s).st = b := rfl
@[simp] theorem writeSt_disp (b : Byte) : (writeSt b s).disp = s.disp := rfl
@[simp] theorem writeSt_keys (b : Byte) : (writeSt b s).keys = s.keys := rfl
@[simp] theorem writeSt_wait (b : Byte) : (writeSt b s).wait = s.wait := rfl
@[simp] theorem writeSt_keyLatch (b : Byte) : (writeSt b s).keyLatch = s.keyLatch := rfl
@[simp] theorem writeSt_host (b : Byte) : (writeSt b s).host = s.host := rfl
@[simp] theorem writeSt_rnd (b : Byte) : (writeSt b s).rnd = s.rnd := rfl
@[simp] theorem writeSt_draws (b : Byte) : (writeSt b s).draws = s.draws := rfl
@[simp] theorem writeSt_shiftSrc (b : Byte) : (writeSt b s).shiftSrc = s.shiftSrc := rfl

/-! ## writeKey -/

@[simp] theorem writeKey_mem (k : Nibble) (p : Bool) : (writeKey k p s).mem = s.mem := rfl
@[simp] theorem writeKey_v (k : Nibble) (p : Bool) : (writeKey k p s).v = s.v := rfl
@[simp] theorem writeKey_i (k : Nibble) (p : Bool) : (writeKey k p s).i = s.i := rfl
@[simp] theorem writeKey_pc (k : Nibble) (p : Bool) : (writeKey k p s).pc = s.pc := rfl
@[simp] theorem writeKey_sp (k : Nibble) (p : Bool) : (writeKey k p s).sp = s.sp := rfl
@[simp] theorem writeKey_stack (k : Nibble) (p : Bool) : (writeKey k p s).stack = s.stack := rfl
@[simp] theorem writeKey_dt (k : Nibble) (p : Bool) : (writeKey k p s).dt = s.dt := rfl
@[simp] theorem writeKey_st (k : Nibble) (p : Bool) : (writeKey k p s).st = s.st := rfl
@[simp] theorem writeKey_disp (k : Nibble) (p : Bool) : (writeKey k p s).disp = s.disp := rfl
@[simp] theorem writeKey_keys (k : Nibble) (p : Bool) : (writeKey k p s).keys = s.keys.set k.toNat p k.isLt := rfl
@[simp] theorem writeKey_wait (k : Nibble) (p : Bool) : (writeKey k p s).wait = s.wait := rfl
@[simp] theorem writeKey_keyLatch (k : Nibble) (p : Bool) : (writeKey k p s).keyLatch = s.keyLatch := rfl
@[simp] theorem writeKey_host (k : Nibble) (p : Bool) : (writeKey k p s).host = s.host := rfl
@[simp] theorem writeKey_rnd (k : Nibble) (p : Bool) : (writeKey k p s).rnd = s.rnd := rfl
@[simp] theorem writeKey_draws (k : Nibble) (p : Bool) : (writeKey k p s).draws = s.draws := rfl
@[simp] theorem writeKey_shiftSrc (k : Nibble) (p : Bool) : (writeKey k p s).shiftSrc = s.shiftSrc := rfl

/-! ## writeWait -/

@[simp] theorem writeWait_mem (w : Wait) : (writeWait w s).mem = s.mem := rfl
@[simp] theorem writeWait_v (w : Wait) : (writeWait w s).v = s.v := rfl
@[simp] theorem writeWait_i (w : Wait) : (writeWait w s).i = s.i := rfl
@[simp] theorem writeWait_pc (w : Wait) : (writeWait w s).pc = s.pc := rfl
@[simp] theorem writeWait_sp (w : Wait) : (writeWait w s).sp = s.sp := rfl
@[simp] theorem writeWait_stack (w : Wait) : (writeWait w s).stack = s.stack := rfl
@[simp] theorem writeWait_dt (w : Wait) : (writeWait w s).dt = s.dt := rfl
@[simp] theorem writeWait_st (w : Wait) : (writeWait w s).st = s.st := rfl
@[simp] theorem writeWait_disp (w : Wait) : (writeWait w s).disp = s.disp := rfl
@[simp] theorem writeWait_keys (w : Wait) : (writeWait w s).keys = s.keys := rfl
@[simp] theorem writeWait_wait (w : Wait) : (writeWait w s).wait = w := rfl
@[simp] theorem writeWait_keyLatch (w : Wait) : (writeWait w s).keyLatch = s.keyLatch := rfl
@[simp] theorem writeWait_host (w : Wait) : (writeWait w s).host = s.host := rfl
@[simp] theorem writeWait_rnd (w : Wait) : (writeWait w s).rnd = s.rnd := rfl
@[simp] theorem writeWait_draws (w : Wait) : (writeWait w s).draws = s.draws := rfl
@[simp] theorem writeWait_shiftSrc (w : Wait) : (writeWait w s).shiftSrc = s.shiftSrc := rfl

/-! ## writeLatch -/

@[simp] theorem writeLatch_mem (l : Option Nibble) : (writeLatch l s).mem = s.mem := rfl
@[simp] theorem writeLatch_v (l : Option Nibble) : (writeLatch l s).v = s.v := rfl
@[simp] theorem writeLatch_i (l : Option Nibble) : (writeLatch l s).i = s.i := rfl
@[simp] theorem writeLatch_pc (l : Option Nibble) : (writeLatch l s).pc = s.pc := rfl
@[simp] theorem writeLatch_sp (l : Option Nibble) : (writeLatch l s).sp = s.sp := rfl
@[simp] theorem writeLatch_stack (l : Option Nibble) : (writeLatch l s).stack = s.stack := rfl
@[simp] theorem writeLatch_dt (l : Option Nibble) : (writeLatch l s).dt = s.dt := rfl
@[simp] theorem writeLatch_st (l : Option Nibble) : (writeLatch l s).st = s.st := rfl
@[simp] theorem writeLatch_disp (l : Option Nibble) : (writeLatch l s).disp = s.disp := rfl
@[simp] theorem writeLatch_keys (l : Option Nibble) : (writeLatch l s).keys = s.keys := rfl
@[simp] theorem writeLatch_wait (l : Option Nibble) : (writeLatch l s).wait = s.wait := rfl
@[simp] theorem writeLatch_keyLatch (l : Option Nibble) : (writeLatch l s).keyLatch = l := rfl
@[simp] theorem writeLatch_host (l : Option Nibble) : (writeLatch l s).host = s.host := rfl
@[simp] theorem writeLatch_rnd (l : Option Nibble) : (writeLatch l s).rnd = s.rnd := rfl
@[simp] theorem writeLatch_draws (l : Option Nibble) : (writeLatch l s).draws = s.draws := rfl
@[simp] theorem writeLatch_shiftSrc (l : Option Nibble) : (writeLatch l s).shiftSrc = s.shiftSrc := rfl

/-! ## withDraw -/

@[simp] theorem withDraw_mem (r : Option Byte) : (withDraw r s).mem = s.mem := rfl
@[simp] theorem withDraw_v (r : Option Byte) : (withDraw r s).v = s.v := rfl
@[simp] theorem withDraw_i (r : Option Byte) : (withDraw r s).i = s.i := rfl
@[simp] theorem withDraw_pc (r : Option Byte) : (withDraw r s).pc = s.pc := rfl
@[simp] theorem withDraw_sp (r : Option Byte) : (withDraw r s).sp = s.sp := rfl
@[simp] theorem withDraw_stack (r : Option Byte) : (withDraw r s).stack = s.stack := rfl
@[simp] theorem withDraw_dt (r : Option Byte) : (withDraw r s).dt = s.dt := rfl
@[simp] theorem withDraw_st (r : Option Byte) : (withDraw r s).st = s.st := rfl
@[simp] theorem withDraw_disp (r : Option Byte) : (withDraw r s).disp = s.disp := rfl
@[simp] theorem withDraw_keys (r : Option Byte) : (withDraw r s).keys = s.keys := rfl
@[simp] theorem withDraw_wait (r : Option Byte) : (withDraw r s).wait = s.wait := rfl
@[simp] theorem withDraw_keyLatch (r : Option Byte) : (withDraw r s).keyLatch = s.keyLatch := rfl
@[simp] theorem withDraw_host (r : Option Byte) : (withDraw r s).host = s.host := rfl
@[simp] theorem withDraw_rnd (r : Option Byte) : (withDraw r s).rnd = r := rfl
@[simp] theorem withDraw_draws (r : Option Byte) : (withDraw r s).draws = s.draws := rfl
@[simp] theorem withDraw_shiftSrc (r : Option Byte) : (withDraw r s).shiftSrc = s.shiftSrc := rfl

/-! ## withHost -/

@[simp] theorem withHost_mem (h : List HostOp) : (withHost h s).mem = s.mem := rfl
@[simp] theorem withHost_v (h : List HostOp) : (withHost h s).v = s.v := rfl
@[simp] theorem withHost_i (h : List HostOp) : (withHost h s).i = s.i := rfl
@[simp] theorem withHost_pc (h : List HostOp) : (withHost h s).pc = s.pc := rfl
@[simp] theorem withHost_sp (h : List HostOp) : (withHost h s).sp = s.sp := rfl
@[simp] theorem withHost_stack (h : List HostOp) : (withHost h s).stack = s.stack := rfl
@[simp] theorem withHost_dt (h : List HostOp) : (withHost h s).dt = s.dt := rfl
@[simp] theorem withHost_st (h : List HostOp) : (withHost h s).st = s.st := rfl
@[simp] theorem withHost_disp (h : List HostOp) : (withHost h s).disp = s.disp := rfl
@[simp] theorem withHost_keys (h : List HostOp) : (withHost h s).keys = s.keys := rfl
@[simp] theorem withHost_wait (h : List HostOp) : (withHost h s).wait = s.wait := rfl
@[simp] theorem withHost_keyLatch (h : List HostOp) : (withHost h s).keyLatch = s.keyLatch := rfl
@[simp] theorem withHost_host (h : List HostOp) : (withHost h s).host = h := rfl
@[simp] theorem withHost_rnd (h : List HostOp) : (withHost h s).rnd = s.rnd := rfl
@[simp] theorem withHost_draws (h : List HostOp) : (withHost h s).draws = s.draws := rfl
@[simp] theorem withHost_shiftSrc (h : List HostOp) : (withHost h s).shiftSrc = s.shiftSrc := rfl

/-! ## withShiftSrc -/

@[simp] theorem withShiftSrc_mem (c : Config.ShiftSrc) : (withShiftSrc c s).mem = s.mem := rfl
@[simp] theorem withShiftSrc_v (c : Config.ShiftSrc) : (withShiftSrc c s).v = s.v := rfl
@[simp] theorem withShiftSrc_i (c : Config.ShiftSrc) : (withShiftSrc c s).i = s.i := rfl
@[simp] theorem withShiftSrc_pc (c : Config.ShiftSrc) : (withShiftSrc c s).pc = s.pc := rfl
@[simp] theorem withShiftSrc_sp (c : Config.ShiftSrc) : (withShiftSrc c s).sp = s.sp := rfl
@[simp] theorem withShiftSrc_stack (c : Config.ShiftSrc) : (withShiftSrc c s).stack = s.stack := rfl
@[simp] theorem withShiftSrc_dt (c : Config.ShiftSrc) : (withShiftSrc c s).dt = s.dt := rfl
@[simp] theorem withShiftSrc_st (c : Config.ShiftSrc) : (withShiftSrc c s).st = s.st := rfl
@[simp] theorem withShiftSrc_disp (c : Config.ShiftSrc) : (withShiftSrc c s).disp = s.disp := rfl
@[simp] theorem withShiftSrc_keys (c : Config.ShiftSrc) : (withShiftSrc c s).keys = s.keys := rfl
@[simp] theorem withShiftSrc_wait (c : Config.ShiftSrc) : (withShiftSrc c s).wait = s.wait := rfl
@[simp] theorem withShiftSrc_keyLatch (c : Config.ShiftSrc) : (withShiftSrc c s).keyLatch = s.keyLatch := rfl
@[simp] theorem withShiftSrc_host (c : Config.ShiftSrc) : (withShiftSrc c s).host = s.host := rfl
@[simp] theorem withShiftSrc_rnd (c : Config.ShiftSrc) : (withShiftSrc c s).rnd = s.rnd := rfl
@[simp] theorem withShiftSrc_draws (c : Config.ShiftSrc) : (withShiftSrc c s).draws = s.draws := rfl
@[simp] theorem withShiftSrc_shiftSrc (c : Config.ShiftSrc) : (withShiftSrc c s).shiftSrc = c := rfl

/-! ## useDraw: only the count of free draws changes -/

@[simp] theorem useDraw_mem : (useDraw s).mem = s.mem := by unfold useDraw; split <;> rfl
@[simp] theorem useDraw_v : (useDraw s).v = s.v := by unfold useDraw; split <;> rfl
@[simp] theorem useDraw_i : (useDraw s).i = s.i := by unfold useDraw; split <;> rfl
@[simp] theorem useDraw_pc : (useDraw s).pc = s.pc := by unfold useDraw; split <;> rfl
@[simp] theorem useDraw_sp : (useDraw s).sp = s.sp := by unfold useDraw; split <;> rfl
@[simp] theorem useDraw_stack : (useDraw s).stack = s.stack := by unfold useDraw; split <;> rfl
@[simp] theorem useDraw_dt : (useDraw s).dt = s.dt := by unfold useDraw; split <;> rfl
@[simp] theorem useDraw_st : (useDraw s).st = s.st := by unfold useDraw; split <;> rfl
@[simp] theorem useDraw_disp : (useDraw s).disp = s.disp := by unfold useDraw; split <;> rfl
@[simp] theorem useDraw_keys : (useDraw s).keys = s.keys := by unfold useDraw; split <;> rfl
@[simp] theorem useDraw_wait : (useDraw s).wait = s.wait := by unfold useDraw; split <;> rfl
@[simp] theorem useDraw_keyLatch : (useDraw s).keyLatch = s.keyLatch := by unfold useDraw; split <;> rfl
@[simp] theorem useDraw_host : (useDraw s).host = s.host := by unfold useDraw; split <;> rfl
@[simp] theorem useDraw_rnd : (useDraw s).rnd = s.rnd := by unfold useDraw; split <;> rfl
@[simp] theorem useDraw_shiftSrc : (useDraw s).shiftSrc = s.shiftSrc := by unfold useDraw; split <;> rfl

/-- A draw the host names leaves the count, a free draw is counted. -/
@[simp] theorem useDraw_draws : (useDraw s).draws = if s.rnd = none then s.draws + 1 else s.draws := by
  unfold useDraw; split <;> simp_all

end Sys2Proof.Machine
end

