-- ==== Sys2Proof/Laws/Ops.lean ====
section
/-! SUPPORT. One lemma per shared operation, saying once what it does; proofs cite these and do not unfold the operation. -/

namespace Sys2Proof.Machine

/-! ## Registers, bytes, keys, cells: a read after a write -/

@[simp] theorem readV_writeV (r x : Nibble) (b : Byte) (s : State) :
    readV r (writeV x b s) = if r = x then b else readV r s := by
  by_cases h : r = x
  · subst h; simp [readV]
  · have : x.toNat ≠ r.toNat := fun e => h (BitVec.eq_of_toNat_eq e.symm)
    simp [readV, h, this]

@[simp] theorem readByte_writeByte (c a : Nat) (b : Byte) (s : State) :
    readByte c (writeByte a b s) = if c = a then b else readByte c s := by
  simp [readByte]

@[simp] theorem keyPressed_writeKey (j k : Nibble) (p : Bool) (s : State) :
    keyPressed j (writeKey k p s) = if j = k then p else keyPressed j s := by
  by_cases h : j = k
  · subst h; simp [keyPressed]
  · have : k.toNat ≠ j.toNat := fun e => h (BitVec.eq_of_toNat_eq e.symm)
    simp [keyPressed, h, this]

theorem cell_flipCell (px py x y : Nat) (d : Display) :
    cell px py (flipCell x y d) =
      if px % 64 = x % 64 ∧ py % 32 = y % 32 then !cell x y d else cell px py d := by
  unfold cell flipCell
  by_cases hy : py % 32 = y % 32 <;> by_cases hx : px % 64 = x % 64 <;>
    simp [hx, hy, cell, eq_comm]

@[simp] theorem cell_clearDisplay (x y : Nat) : cell x y clearDisplay = false := by
  simp [cell, clearDisplay]

/-- A register is read from the register file alone. -/
theorem readV_congr {s t : State} (h : t.v = s.v) (r : Nibble) : readV r t = readV r s := by
  simp [readV, h]

/-- A byte is read from the memory alone. -/
theorem readByte_congr {s t : State} (h : t.mem = s.mem) (a : Nat) : readByte a t = readByte a s := by
  simp [readByte, h]

/-- A key is read from the key states alone. -/
theorem keyPressed_congr {s t : State} (h : t.keys = s.keys) (k : Nibble) : keyPressed k t = keyPressed k s := by
  simp [keyPressed, h]

/-- The skip: pc is the only thing it writes. -/
theorem skipIf_eq (c : Bool) (s : State) : skipIf c s = jump (if c then s.pc + 2 else s.pc) s := by
  cases c <;> rfl

/-- The flag as a number is 0 or 1. -/
theorem flagByte_cases (c : Bool) : flagByte c = 0 ∨ flagByte c = 1 := by cases c <;> simp [flagByte]

/-- Result first, flag last: VF is the flag, the other registers are as after the write of the result (R91). -/
theorem readV_writeResultFlag (r x : Nibble) (b : Byte) (c : Bool) (s : State) :
    readV r (writeResultFlag x b c s) = if r = vf then flagByte c else if r = x then b else readV r s := by
  simp [writeResultFlag, writeFlag]

/-! ## Runs of bytes and registers -/

/-- Storing bytes writes the memory and nothing else. -/
theorem writeBytes_eq (a : Nat) (bs : List Byte) (s : State) :
    writeBytes a bs s = { s with mem := (writeBytes a bs s).mem } := by
  induction bs generalizing a s with
  | nil => rfl
  | cons b bs ih => simp only [writeBytes]; rw [ih]; rfl

/-- What a byte reads as after bytes were stored from `a` on. -/
theorem readByte_writeBytes (c a : Nat) (bs : List Byte) (s : State) :
    readByte c (writeBytes a bs s) =
      if a ≤ c ∧ c < a + bs.length then bs.getD (c - a) 0 else readByte c s := by
  induction bs generalizing a s with
  | nil => rw [if_neg (by simp)]; rfl
  | cons b bs ih =>
    simp only [writeBytes, ih, readByte_writeByte, List.length_cons]
    by_cases h : c = a
    · subst h; simp
    · by_cases h1 : a + 1 ≤ c ∧ c < a + 1 + bs.length
      · have h2 : a ≤ c ∧ c < a + (bs.length + 1) := by omega
        have h3 : c - a = (c - (a + 1)) + 1 := by omega
        simp [h1, h2, h3]
      · have h2 : ¬ (a ≤ c ∧ c < a + (bs.length + 1)) := by omega
        rw [if_neg h1, if_neg h2, if_neg h]

/-- Storing a range inside the address space keeps the canonical form. -/
theorem writeBytes_wf {a : Nat} {bs : List Byte} {s : State} (h : s.mem.wf)
    (hr : bs = [] ∨ a + bs.length ≤ Config.memSize) : (writeBytes a bs s).mem.wf := by
  induction bs generalizing a s with
  | nil => exact h
  | cons b bs ih =>
    have hr : a + (bs.length + 1) ≤ Config.memSize := by simpa using hr
    refine ih (Memory.wf_write h (by omega)) (.inr (by omega))

/-- Loading registers writes the register file and nothing else. -/
theorem writeVs_eq (k : Nat) (bs : List Byte) (s : State) :
    writeVs k bs s = { s with v := (writeVs k bs s).v } := by
  induction bs generalizing k s with
  | nil => rfl
  | cons b bs ih => simp only [writeVs]; rw [ih]; rfl

/-- What a register holds after registers were loaded from `V[k]` on. -/
theorem readV_writeVs (r : Nibble) (k : Nat) (bs : List Byte) (s : State) (hk : k + bs.length ≤ 16) :
    readV r (writeVs k bs s) =
      if k ≤ r.toNat ∧ r.toNat < k + bs.length then bs.getD (r.toNat - k) 0 else readV r s := by
  induction bs generalizing k s with
  | nil => rw [if_neg (by simp)]; rfl
  | cons b bs ih =>
    simp only [List.length_cons] at hk
    have hkn : (BitVec.ofNat 4 k).toNat = k := by simp; omega
    have hrk : r = BitVec.ofNat 4 k ↔ r.toNat = k := by
      rw [BitVec.toNat_eq, hkn]
    rw [writeVs, ih _ _ (by omega), readV_writeV]
    simp only [hrk, List.length_cons]
    by_cases h : r.toNat = k
    · simp [h]
    · by_cases h1 : k + 1 ≤ r.toNat ∧ r.toNat < k + 1 + bs.length
      · have h2 : k ≤ r.toNat ∧ r.toNat < k + (bs.length + 1) := by omega
        have h3 : r.toNat - k = (r.toNat - (k + 1)) + 1 := by omega
        simp [h1, h2, h3]
      · have h2 : ¬ (k ≤ r.toNat ∧ r.toNat < k + (bs.length + 1)) := by omega
        rw [if_neg h1, if_neg h2, if_neg h]

@[simp] theorem readBytes_length (a n : Nat) (s : State) : (readBytes a n s).length = n := by simp [readBytes]

@[simp] theorem readVs_length (x : Nibble) (s : State) : (readVs x s).length = x.toNat + 1 := by simp [readVs]

@[simp] theorem digits_length (b : Byte) : (digits b).length = 3 := rfl

/-! ## Outcomes -/

/-- The range check answers the given state iff the range exists, and faults otherwise: it never refuses. -/
theorem withRange_cases (a n : Nat) (t : State) :
    (inMemory a n = true ∧ withRange a n t = .next t) ∨
      (inMemory a n = false ∧ withRange a n t = .fault (.memoryOutOfRange (max a Config.memSize))) := by
  unfold withRange raise
  cases h : inMemory a n <;> simp

theorem inMemory_iff (a n : Nat) : inMemory a n = true ↔ n = 0 ∨ a + n ≤ Config.memSize := by
  simp [inMemory]

/-- If the range check answers a next state, it is the given one and the range exists. -/
theorem withRange_next {a n : Nat} {t u : State} (h : withRange a n t = .next u) :
    u = t ∧ (n = 0 ∨ a + n ≤ Config.memSize) := by
  rcases withRange_cases a n t with ⟨hr, he⟩ | ⟨_, he⟩
  · rw [he] at h; exact ⟨by cases h; rfl, (inMemory_iff a n).1 hr⟩
  · rw [he] at h; cases h

/-- The state after an error differs from the state before at most in pc (R131). -/
theorem afterError_eq (f : Fault) (s : State) : afterError f s = s ∨ afterError f s = advance s := by
  cases f <;> simp [afterError]

/-- A key press writes the key states and, on the first transition of a wait, the latch (R148). -/
theorem keypress_eq (k : Nibble) (p : Bool) (s : State) :
    keypress k p s = writeKey k p s ∨
      ((∃ x, s.wait = .awaitingKey x) ∧ keypress k p s = writeLatch (some k) (writeKey k p s)) := by
  unfold keypress
  by_cases h : (isWaiting s && s.keyLatch.isNone && p && !keyPressed k s) = true
  · rw [if_pos h]
    refine .inr ⟨?_, rfl⟩
    cases hw : s.wait <;> simp_all [isWaiting]
  · rw [if_neg h]; exact .inl rfl

end Sys2Proof.Machine
end

