-- ==== Sys2Proof/Laws/Frame.lean ====
section
/-! SUPPORT. A read passes every update of another part; what a frame says, part by part. -/

namespace Sys2Proof.Machine

/-! ## The fixed sizes as numbers -/

@[simp] theorem memSize_eq : Config.memSize = 4096 := rfl
@[simp] theorem stackDepth_eq : Config.stackDepth = 16 := rfl
@[simp] theorem imageMax_eq : Config.imageMax = 3584 := rfl
@[simp] theorem progBase_eq : Config.progBase = 512 := rfl

variable (s : State)

/-! ## Reads through updates of other parts -/

@[simp] theorem readV_writeI (r : Nibble) (w : Word) : readV r (writeI w s) = readV r s := rfl
@[simp] theorem readV_jump (r : Nibble) (w : Word) : readV r (jump w s) = readV r s := rfl
@[simp] theorem readV_advance (r : Nibble) : readV r (advance s) = readV r s := rfl
@[simp] theorem readV_push (r : Nibble) (w : Word) : readV r (push w s) = readV r s := rfl
@[simp] theorem readV_dropTop (r : Nibble) : readV r (dropTop s) = readV r s := rfl
@[simp] theorem readV_writeByte (r : Nibble) (a : Nat) (b : Byte) : readV r (writeByte a b s) = readV r s := rfl
@[simp] theorem readV_writeDisp (r : Nibble) (d : Display) : readV r (writeDisp d s) = readV r s := rfl
@[simp] theorem readV_writeDt (r : Nibble) (b : Byte) : readV r (writeDt b s) = readV r s := rfl
@[simp] theorem readV_writeSt (r : Nibble) (b : Byte) : readV r (writeSt b s) = readV r s := rfl
@[simp] theorem readV_writeKey (r : Nibble) (k : Nibble) (p : Bool) : readV r (writeKey k p s) = readV r s := rfl
@[simp] theorem readV_writeWait (r : Nibble) (w : Wait) : readV r (writeWait w s) = readV r s := rfl
@[simp] theorem readV_writeLatch (r : Nibble) (l : Option Nibble) : readV r (writeLatch l s) = readV r s := rfl
@[simp] theorem readV_withDraw (r : Nibble) (d : Option Byte) : readV r (withDraw d s) = readV r s := rfl
@[simp] theorem readV_withHost (r : Nibble) (h : List HostOp) : readV r (withHost h s) = readV r s := rfl
@[simp] theorem readV_withShiftSrc (r : Nibble) (c : Config.ShiftSrc) : readV r (withShiftSrc c s) = readV r s := rfl
@[simp] theorem readV_useDraw (r : Nibble) : readV r (useDraw s) = readV r s := readV_congr (by simp) _

@[simp] theorem readByte_writeV (c : Nat) (x : Nibble) (b : Byte) : readByte c (writeV x b s) = readByte c s := rfl
@[simp] theorem readByte_writeI (c : Nat) (w : Word) : readByte c (writeI w s) = readByte c s := rfl
@[simp] theorem readByte_jump (c : Nat) (w : Word) : readByte c (jump w s) = readByte c s := rfl
@[simp] theorem readByte_advance (c : Nat) : readByte c (advance s) = readByte c s := rfl
@[simp] theorem readByte_push (c : Nat) (w : Word) : readByte c (push w s) = readByte c s := rfl
@[simp] theorem readByte_dropTop (c : Nat) : readByte c (dropTop s) = readByte c s := rfl
@[simp] theorem readByte_writeDisp (c : Nat) (d : Display) : readByte c (writeDisp d s) = readByte c s := rfl
@[simp] theorem readByte_writeDt (c : Nat) (b : Byte) : readByte c (writeDt b s) = readByte c s := rfl
@[simp] theorem readByte_writeSt (c : Nat) (b : Byte) : readByte c (writeSt b s) = readByte c s := rfl
@[simp] theorem readByte_writeKey (c : Nat) (k : Nibble) (p : Bool) : readByte c (writeKey k p s) = readByte c s := rfl
@[simp] theorem readByte_writeWait (c : Nat) (w : Wait) : readByte c (writeWait w s) = readByte c s := rfl
@[simp] theorem readByte_writeLatch (c : Nat) (l : Option Nibble) : readByte c (writeLatch l s) = readByte c s := rfl
@[simp] theorem readByte_withDraw (c : Nat) (r : Option Byte) : readByte c (withDraw r s) = readByte c s := rfl
@[simp] theorem readByte_withHost (c : Nat) (h : List HostOp) : readByte c (withHost h s) = readByte c s := rfl
@[simp] theorem readByte_withShiftSrc (a : Nat) (c : Config.ShiftSrc) : readByte a (withShiftSrc c s) = readByte a s := rfl
@[simp] theorem readByte_useDraw (c : Nat) : readByte c (useDraw s) = readByte c s := readByte_congr (by simp) _

@[simp] theorem keyPressed_writeV (j : Nibble) (x : Nibble) (b : Byte) : keyPressed j (writeV x b s) = keyPressed j s := rfl
@[simp] theorem keyPressed_writeI (j : Nibble) (w : Word) : keyPressed j (writeI w s) = keyPressed j s := rfl
@[simp] theorem keyPressed_jump (j : Nibble) (w : Word) : keyPressed j (jump w s) = keyPressed j s := rfl
@[simp] theorem keyPressed_advance (j : Nibble) : keyPressed j (advance s) = keyPressed j s := rfl
@[simp] theorem keyPressed_push (j : Nibble) (w : Word) : keyPressed j (push w s) = keyPressed j s := rfl
@[simp] theorem keyPressed_dropTop (j : Nibble) : keyPressed j (dropTop s) = keyPressed j s := rfl
@[simp] theorem keyPressed_writeByte (j : Nibble) (a : Nat) (b : Byte) : keyPressed j (writeByte a b s) = keyPressed j s := rfl
@[simp] theorem keyPressed_writeDisp (j : Nibble) (d : Display) : keyPressed j (writeDisp d s) = keyPressed j s := rfl
@[simp] theorem keyPressed_writeDt (j : Nibble) (b : Byte) : keyPressed j (writeDt b s) = keyPressed j s := rfl
@[simp] theorem keyPressed_writeSt (j : Nibble) (b : Byte) : keyPressed j (writeSt b s) = keyPressed j s := rfl
@[simp] theorem keyPressed_writeWait (j : Nibble) (w : Wait) : keyPressed j (writeWait w s) = keyPressed j s := rfl
@[simp] theorem keyPressed_writeLatch (j : Nibble) (l : Option Nibble) : keyPressed j (writeLatch l s) = keyPressed j s := rfl
@[simp] theorem keyPressed_withDraw (j : Nibble) (r : Option Byte) : keyPressed j (withDraw r s) = keyPressed j s := rfl
@[simp] theorem keyPressed_withHost (j : Nibble) (h : List HostOp) : keyPressed j (withHost h s) = keyPressed j s := rfl
@[simp] theorem keyPressed_withShiftSrc (j : Nibble) (c : Config.ShiftSrc) : keyPressed j (withShiftSrc c s) = keyPressed j s := rfl
@[simp] theorem keyPressed_useDraw (j : Nibble) : keyPressed j (useDraw s) = keyPressed j s := keyPressed_congr (by simp) _

/-! ## Frames -/

/-- A frame, part by part. -/
theorem keepsAllBut_iff (ch : List Part) (s t : State) :
    KeepsAllBut ch s t ↔
      (.mem ∉ ch → SamePart .mem s t) ∧ (.v ∉ ch → SamePart .v s t) ∧ (.i ∉ ch → SamePart .i s t) ∧
      (.pc ∉ ch → SamePart .pc s t) ∧ (.sp ∉ ch → SamePart .sp s t) ∧ (.stack ∉ ch → SamePart .stack s t) ∧
      (.dt ∉ ch → SamePart .dt s t) ∧ (.st ∉ ch → SamePart .st s t) ∧ (.disp ∉ ch → SamePart .disp s t) ∧
      (.keys ∉ ch → SamePart .keys s t) ∧ (.wait ∉ ch → SamePart .wait s t) ∧
      (.keyLatch ∉ ch → SamePart .keyLatch s t) ∧ (.host ∉ ch → SamePart .host s t) ∧
      (.rnd ∉ ch → SamePart .rnd s t) ∧ (.draws ∉ ch → SamePart .draws s t) ∧
      (.shiftSrc ∉ ch → SamePart .shiftSrc s t) := by
  constructor
  · intro h
    exact ⟨h _, h _, h _, h _, h _, h _, h _, h _, h _, h _, h _, h _, h _, h _, h _, h _⟩
  · rintro ⟨h1, h2, h3, h4, h5, h6, h7, h8, h9, h10, h11, h12, h13, h14, h15, h16⟩ p
    cases p <;> assumption

/-- Storing bytes keeps everything but the memory. -/
theorem writeBytes_frame (a : Nat) (bs : List Byte) : KeepsAllBut [.mem] s (writeBytes a bs s) := by
  rw [writeBytes_eq, keepsAllBut_iff]; simp [SamePart, readV, keyPressed]

/-- What a byte reads as after a store, as the statements say it. -/
theorem readByte_writeBytes_eq_byteAfterStore (c a : Nat) (bs : List Byte) :
    readByte c (writeBytes a bs s) = byteAfterStore a bs s c := by
  rw [readByte_writeBytes, byteAfterStore]
  by_cases h : a ≤ c
  · by_cases h' : c < a + bs.length
    · have hl : c - a < bs.length := by omega
      simp [h, h', List.getD_eq_getElem?_getD, hl]
    · have hl : bs.length ≤ c - a := by omega
      simp [h, h', List.getD_eq_getElem?_getD, hl]
  · simp [h]

/-- Storing bytes keeps every byte outside their range. -/
theorem writeBytes_outside (a : Nat) (bs : List Byte) : KeepsBytesOutside a bs.length s (writeBytes a bs s) := by
  intro b hb; rw [readByte_writeBytes, if_neg]; omega

/-- Loading registers keeps everything but the registers. -/
theorem writeVs_frame (k : Nat) (bs : List Byte) : KeepsAllBut [.v] s (writeVs k bs s) := by
  rw [writeVs_eq, keepsAllBut_iff]; simp [SamePart, readByte, keyPressed]

/-- A result and its flag: the destination and VF are all that changes. -/
theorem writeResultFlag_frame (x : Nibble) (r : Byte) (c : Bool) :
    KeepsRegsBut [x, vf] s (writeResultFlag x r c s) ∧ KeepsAllBut [.v] s (writeResultFlag x r c s) := by
  constructor
  · simp +contextual [KeepsRegsBut, readV_writeResultFlag]
  · rw [keepsAllBut_iff]; simp [SamePart, writeResultFlag, writeFlag]

end Sys2Proof.Machine
end

