-- ==== Sys2Proof/Laws/PerInstr.lean ====
section
/-! SUPPORT. Statements for all instructions, one lemma per constructor. OpcodeRow: an instruction's row is a row of the
opcode map and its word matches it (30_encoding.md R50). -/

namespace Sys2Proof.Laws.OpcodeRow

/-- The instruction's row stands in the opcode map, and the instruction's word matches the row. -/
def Statement (i : Instr) : Prop := i.row ∈ opcodeMap ∧ i.row.matches (encode i) = true

/-- The AND of two words laid out alike is the AND of their parts. -/
theorem append_and {m n : Nat} (a c : BitVec m) (b d : BitVec n) : (a ++ b) &&& (c ++ d) = (a &&& c) ++ (b &&& d) := by
  ext i hi
  simp only [BitVec.getElem_and, BitVec.getElem_append]
  split <;> simp

/-- A word of format NNN matches a row that fixes only the family. -/
theorem matches_NNN (m : String) (a : Nibble) (nnn : Addr12) :
    (Row.mk m 0xF000 (wordNNN a 0)).matches (wordNNN a nnn) = true := by
  rw [Row.matches, beq_iff_eq]
  exact (append_and a (BitVec.allOnes 4) nnn 0#12).trans (by simp only [BitVec.and_allOnes, BitVec.and_zero]; rfl)

/-- A word of format XKK matches a row that fixes only the family. -/
theorem matches_XKK (m : String) (a x : Nibble) (kk : Byte) :
    (Row.mk m 0xF000 (wordXKK a 0 0)).matches (wordXKK a x kk) = true := by
  rw [Row.matches, beq_iff_eq]
  exact (append_and (a ++ x) (BitVec.allOnes 4 ++ 0#4) kk 0#8).trans (by simp only [append_and, BitVec.and_allOnes, BitVec.and_zero]; rfl)

/-- A word of format XF matches a row that fixes the family and the low byte. -/
theorem matches_XF (m : String) (a x : Nibble) (kk : Byte) :
    (Row.mk m 0xF0FF (wordXKK a 0 kk)).matches (wordXKK a x kk) = true := by
  rw [Row.matches, beq_iff_eq]
  exact (append_and (a ++ x) (BitVec.allOnes 4 ++ 0#4) kk (BitVec.allOnes 8)).trans
    (by simp only [append_and, BitVec.and_allOnes, BitVec.and_zero]; rfl)

/-- A word of format XY matches a row that fixes the family and the low nibble. -/
theorem matches_XY (m : String) (a x y n : Nibble) :
    (Row.mk m 0xF00F (wordXYN a 0 0 n)).matches (wordXYN a x y n) = true := by
  rw [Row.matches, beq_iff_eq]
  exact (append_and (a ++ x ++ y) (BitVec.allOnes 4 ++ 0#4 ++ 0#4) n (BitVec.allOnes 4)).trans
    (by simp only [append_and, BitVec.and_allOnes, BitVec.and_zero]; rfl)

/-- A word of format XYN matches a row that fixes only the family. -/
theorem matches_XYN (m : String) (a x y n : Nibble) :
    (Row.mk m 0xF000 (wordXYN a 0 0 0)).matches (wordXYN a x y n) = true := by
  rw [Row.matches, beq_iff_eq]
  exact (append_and (a ++ x ++ y) (BitVec.allOnes 4 ++ 0#4 ++ 0#4) n 0#4).trans
    (by simp only [append_and, BitVec.and_allOnes, BitVec.and_zero]; rfl)

theorem cls : Statement (.cls) := ⟨by decide, by decide⟩
theorem ret : Statement (.ret) := ⟨by decide, by decide⟩
theorem jp (nnn : Addr12) : Statement (.jp nnn) := ⟨by simp only [Instr.row]; decide, matches_NNN _ 0x1 nnn⟩
theorem call (nnn : Addr12) : Statement (.call nnn) := ⟨by simp only [Instr.row]; decide, matches_NNN _ 0x2 nnn⟩
theorem seImm (x : Nibble) (kk : Byte) : Statement (.seImm x kk) := ⟨by simp only [Instr.row]; decide, matches_XKK _ 0x3 x kk⟩
theorem sneImm (x : Nibble) (kk : Byte) : Statement (.sneImm x kk) := ⟨by simp only [Instr.row]; decide, matches_XKK _ 0x4 x kk⟩
theorem seReg (x : Nibble) (y : Nibble) : Statement (.seReg x y) := ⟨by simp only [Instr.row]; decide, matches_XY _ 0x5 x y 0x0⟩
theorem ldImm (x : Nibble) (kk : Byte) : Statement (.ldImm x kk) := ⟨by simp only [Instr.row]; decide, matches_XKK _ 0x6 x kk⟩
theorem addImm (x : Nibble) (kk : Byte) : Statement (.addImm x kk) := ⟨by simp only [Instr.row]; decide, matches_XKK _ 0x7 x kk⟩
theorem ldReg (x : Nibble) (y : Nibble) : Statement (.ldReg x y) := ⟨by simp only [Instr.row]; decide, matches_XY _ 0x8 x y 0x0⟩
theorem orReg (x : Nibble) (y : Nibble) : Statement (.orReg x y) := ⟨by simp only [Instr.row]; decide, matches_XY _ 0x8 x y 0x1⟩
theorem andReg (x : Nibble) (y : Nibble) : Statement (.andReg x y) := ⟨by simp only [Instr.row]; decide, matches_XY _ 0x8 x y 0x2⟩
theorem xorReg (x : Nibble) (y : Nibble) : Statement (.xorReg x y) := ⟨by simp only [Instr.row]; decide, matches_XY _ 0x8 x y 0x3⟩
theorem addReg (x : Nibble) (y : Nibble) : Statement (.addReg x y) := ⟨by simp only [Instr.row]; decide, matches_XY _ 0x8 x y 0x4⟩
theorem subReg (x : Nibble) (y : Nibble) : Statement (.subReg x y) := ⟨by simp only [Instr.row]; decide, matches_XY _ 0x8 x y 0x5⟩
theorem shr (x : Nibble) (y : Nibble) : Statement (.shr x y) := ⟨by simp only [Instr.row]; decide, matches_XY _ 0x8 x y 0x6⟩
theorem subnReg (x : Nibble) (y : Nibble) : Statement (.subnReg x y) := ⟨by simp only [Instr.row]; decide, matches_XY _ 0x8 x y 0x7⟩
theorem shl (x : Nibble) (y : Nibble) : Statement (.shl x y) := ⟨by simp only [Instr.row]; decide, matches_XY _ 0x8 x y 0xE⟩
theorem sneReg (x : Nibble) (y : Nibble) : Statement (.sneReg x y) := ⟨by simp only [Instr.row]; decide, matches_XY _ 0x9 x y 0x0⟩
theorem ldI (nnn : Addr12) : Statement (.ldI nnn) := ⟨by simp only [Instr.row]; decide, matches_NNN _ 0xA nnn⟩
theorem jpV0 (nnn : Addr12) : Statement (.jpV0 nnn) := ⟨by simp only [Instr.row]; decide, matches_NNN _ 0xB nnn⟩
theorem rnd (x : Nibble) (kk : Byte) : Statement (.rnd x kk) := ⟨by simp only [Instr.row]; decide, matches_XKK _ 0xC x kk⟩
theorem drw (x : Nibble) (y : Nibble) (n : Nibble) : Statement (.drw x y n) := ⟨by simp only [Instr.row]; decide, matches_XYN _ 0xD x y n⟩
theorem skp (x : Nibble) : Statement (.skp x) := ⟨by simp only [Instr.row]; decide, matches_XF _ 0xE x 0x9E⟩
theorem sknp (x : Nibble) : Statement (.sknp x) := ⟨by simp only [Instr.row]; decide, matches_XF _ 0xE x 0xA1⟩
theorem ldVxDt (x : Nibble) : Statement (.ldVxDt x) := ⟨by simp only [Instr.row]; decide, matches_XF _ 0xF x 0x07⟩
theorem ldVxK (x : Nibble) : Statement (.ldVxK x) := ⟨by simp only [Instr.row]; decide, matches_XF _ 0xF x 0x0A⟩
theorem ldDtVx (x : Nibble) : Statement (.ldDtVx x) := ⟨by simp only [Instr.row]; decide, matches_XF _ 0xF x 0x15⟩
theorem ldStVx (x : Nibble) : Statement (.ldStVx x) := ⟨by simp only [Instr.row]; decide, matches_XF _ 0xF x 0x18⟩
theorem addI (x : Nibble) : Statement (.addI x) := ⟨by simp only [Instr.row]; decide, matches_XF _ 0xF x 0x1E⟩
theorem ldF (x : Nibble) : Statement (.ldF x) := ⟨by simp only [Instr.row]; decide, matches_XF _ 0xF x 0x29⟩
theorem ldB (x : Nibble) : Statement (.ldB x) := ⟨by simp only [Instr.row]; decide, matches_XF _ 0xF x 0x33⟩
theorem ldMemVx (x : Nibble) : Statement (.ldMemVx x) := ⟨by simp only [Instr.row]; decide, matches_XF _ 0xF x 0x55⟩
theorem ldVxMem (x : Nibble) : Statement (.ldVxMem x) := ⟨by simp only [Instr.row]; decide, matches_XF _ 0xF x 0x65⟩

end Sys2Proof.Laws.OpcodeRow
end

