-- ==== Sys2Proof/Laws/Step.lean ====
section
/-! SUPPORT. What a tick and a step can do, said once. -/

namespace Sys2Proof.Machine

/-- A fetch answers iff pc and pc+1 exist, with the big-endian word (R61). -/
theorem fetch_some {s : State} {op : Word} (h : fetch s = some op) :
    s.pc.toNat + 1 < Config.memSize ∧
      op = wordOfBytes (readByte s.pc.toNat s) (readByte (s.pc.toNat + 1) s) := by
  unfold fetch at h
  split at h
  · exact ⟨‹_›, by simpa using h.symm⟩
  · cases h

/-- A tick: the wait goes on, the fetch fails, the word is illegal, or the decoded instruction is executed (R60). -/
theorem tick_cases (s : State) :
    (∃ x, s.wait = .awaitingKey x ∧ tick s = .next (waitTick x s)) ∨
    (s.wait = .running ∧ fetch s = none ∧ tick s = .fault (.programCounterOutOfRange s.pc)) ∨
    (∃ op r, s.wait = .running ∧ fetch s = some op ∧ decode op = .error r ∧ tick s = .fault (.illegalOpcode op)) ∨
    (∃ op i, s.wait = .running ∧ fetch s = some op ∧ decode op = .ok i ∧ tick s = exec i (advance s)) := by
  unfold tick
  cases hw : s.wait with
  | awaitingKey x => exact .inl ⟨x, rfl, rfl⟩
  | running =>
    right
    cases hf : fetch s with
    | none => exact .inl ⟨rfl, rfl, rfl⟩
    | some op =>
      right
      cases hd : decode op with
      | error r => exact .inl ⟨op, r, rfl, rfl, hd, by simp [executeWord, hd, raise]⟩
      | ok i => exact .inr ⟨op, i, rfl, rfl, hd, by simp [executeWord, hd]⟩

/-- A tick in the wait (R123). -/
theorem waitTick_cases (x : Nibble) (s : State) :
    (s.keyLatch = none ∧ waitTick x s = s) ∨
    (∃ k, s.keyLatch = some k ∧
      waitTick x s = advance (writeLatch none (writeWait .running (writeV x (k.setWidth 8) s)))) := by
  unfold waitTick
  cases s.keyLatch <;> simp

/-- A step is the host's next call, or a tick with a free draw (R9). -/
theorem step_cases (s : State) :
    (s.host = [] ∧ step s = tick (withDraw none s)) ∨
    (∃ op rest, s.host = op :: rest ∧ step s = serve op (withHost rest s)) := by
  unfold step serveNext
  cases s.host with
  | nil => exact .inl ⟨rfl, rfl⟩
  | cons op rest => exact .inr ⟨op, rest, rfl, rfl⟩

/-- What serving a call that answers a next state was (R9). -/
theorem serve_next {op : HostOp} {s t : State} (h : serve op s = .next t) :
    (op = .reset ∧ t = hostReset s) ∨
    (∃ img, op = .load img ∧ s = hostReset s ∧ img.length ≤ Config.imageMax ∧ t = writeBytes Config.progBase img s) ∨
    (∃ r, op = .tick r ∧ tick (withDraw (some r) s) = .next t) ∨
    (op = .tickTimers ∧ t = tickTimers s) ∨
    (∃ k p, op = .keypress k p ∧ t = keypress k p s) ∨
    (op = .readDisplay ∧ t = s) := by
  cases op with
  | reset => exact .inl ⟨rfl, by cases h; rfl⟩
  | load img =>
    refine .inr (.inl ⟨img, rfl, ?_⟩)
    simp only [serve, launchReady, load, raise, decide_eq_true_eq] at h
    split at h
    · split at h
      · cases h
      · exact ⟨‹_›, by omega, by cases h; rfl⟩
    · cases h
  | tick r => exact .inr (.inr (.inl ⟨r, rfl, h⟩))
  | tickTimers => exact .inr (.inr (.inr (.inl ⟨rfl, by cases h; rfl⟩)))
  | keypress k p => exact .inr (.inr (.inr (.inr (.inl ⟨k, p, rfl, by cases h; rfl⟩))))
  | readDisplay => exact .inr (.inr (.inr (.inr (.inr ⟨rfl, by cases h; rfl⟩))))

/-- The wait changes no parameter. -/
@[simp] theorem waitTick_shiftSrc (x : Nibble) (s : State) : (waitTick x s).shiftSrc = s.shiftSrc := by
  rcases waitTick_cases x s with ⟨-, e⟩ | ⟨k, -, e⟩ <;> simp [e]

/-- Reset changes no parameter (R22). -/
@[simp] theorem hostReset_shiftSrc (s : State) : (hostReset s).shiftSrc = s.shiftSrc := rfl

end Sys2Proof.Machine
end

