-- ==== Sys2Proof/Tests/Slice0.lean ====
section
/-! SUPPORT. The model's own tests. Expected results are the spec's: the vectors of spec/95_test_vectors.md (named in each
comment) or the rule named. Each step test is one step on a small state. The last part holds, for each statement with
hypotheses, a state and operands that meet them, clause by clause, at boundary values. -/

namespace Sys2Proof.Tests

open Sys2Proof.Machine

/-! ## Helpers -/

/-- The outcome is a next state with the property. -/
def nextIs (o : Result) (p : State → Bool) : Bool :=
  match o with
  | .next t => p t
  | .fault _ => false
  | .refused _ => false

/-- The outcome is that fault. -/
def faults (o : Result) (f : Fault) : Bool :=
  match o with
  | .next _ => false
  | .fault g => g == f
  | .refused _ => false

/-- The reset state changed by `set`, with a word placed where it is fetched. -/
def atWord (w : Nat) (set : State → State) : State := (set State.reset).withFetchWord 16 w

/-- The decoder reads that instruction from the word. -/
def reads (w : Word) (i : Instr) : Bool :=
  match decode w with
  | .ok j => j == i
  | .error _ => false

/-- The decoder rejects every one of the words, naming it. -/
def rejects (ws : List Word) : Bool :=
  ws.all fun w =>
    match decode w with
    | .ok _ => false
    | .error r => r == .illegalOpcode w

/-- A display row as the spec's row word: column 0 is the most significant of 64 bits. -/
def rowWord (y : Nat) (s : State) : Nat :=
  (List.range 64).foldl (fun n x => 2 * n + (cell x y s.disp).toNat) 0

/-- Turn a cell on by flipping it. -/
def lit (x y : Nat) (s : State) : State := writeDisp (flipCell x y s.disp) s

/-- Set SP, with every stack entry a return to 0x202. -/
def withStack (n : Byte) (s : State) : State := { s with sp := n, stack := Vector.replicate 16 0x202 }

/-! ## Words: well formed and decoded (ENC vectors) -/

-- R53, one check of the decoder each: ENC-7 (family 0), ENC-9 (5 and 9), ENC-11 (8), ENC-13 (E), ENC-15 (F).
theorem test_illegal_family0 : rejects [0x0000, 0x00E1, 0x00EF, 0x0123, 0x0FFF, 0x00FE] = true := by decide
theorem test_illegal_family5 : rejects [0x5121, 0x512F] = true := by decide
theorem test_illegal_family9 : rejects [0x9121, 0x912F] = true := by decide
theorem test_illegal_family8 : rejects [0x8128, 0x8129, 0x812A, 0x812B, 0x812C, 0x812D, 0x812F] = true := by decide
theorem test_illegal_familyE : rejects [0xE100, 0xE19F, 0xE1A0, 0xE1FF] = true := by decide
theorem test_illegal_familyF :
    rejects [0xF100, 0xF10B, 0xF116, 0xF11F, 0xF130, 0xF156, 0xF166, 0xF1FF] = true := by decide

-- The same words against the opcode map itself (R50): the smoke test of `legalWord`.
theorem test_map_refuses_illegal :
    [0x0000, 0x5121, 0x9121, 0x8128, 0x812F, 0xE100, 0xF100].all (fun w : Word => !legalWord w) = true := by decide
theorem test_map_accepts_legal :
    [0x00E0, 0x5120, 0x9120, 0x812E, 0xE19E, 0xF165].all (fun w : Word => legalWord w) = true := by decide

-- Every constructor, from a word written out by hand (ENC-1 to ENC-6, ENC-8, ENC-10, ENC-12, ENC-14, R50's patterns).
theorem test_decode_flow :
    (reads 0x00E0 .cls && reads 0x00EE .ret && reads 0x1234 (.jp 0x234) && reads 0x2ABC (.call 0xABC) &&
      reads 0xB300 (.jpV0 0x300)) = true := by decide
theorem test_decode_skips :
    (reads 0x3342 (.seImm 3 0x42) && reads 0x4342 (.sneImm 3 0x42) && reads 0x5120 (.seReg 1 2) &&
      reads 0x9120 (.sneReg 1 2)) = true := by decide
theorem test_decode_immediates :
    (reads 0x6AFF (.ldImm 0xA 0xFF) && reads 0x7105 (.addImm 1 5) && reads 0xA300 (.ldI 0x300) &&
      reads 0xC30F (.rnd 3 0x0F)) = true := by decide
theorem test_decode_family8_low :
    (reads 0x8120 (.ldReg 1 2) && reads 0x8121 (.orReg 1 2) && reads 0x8122 (.andReg 1 2) &&
      reads 0x8123 (.xorReg 1 2)) = true := by decide
theorem test_decode_family8_high :
    (reads 0x8124 (.addReg 1 2) && reads 0x8125 (.subReg 1 2) && reads 0x8126 (.shr 1 2) &&
      reads 0x8127 (.subnReg 1 2) && reads 0x812E (.shl 1 2)) = true := by decide
theorem test_decode_draw_and_keys :
    (reads 0xD5A3 (.drw 0x5 0xA 0x3) && reads 0xE19E (.skp 1) && reads 0xE1A1 (.sknp 1)) = true := by decide
theorem test_decode_familyF_low :
    (reads 0xF107 (.ldVxDt 1) && reads 0xF10A (.ldVxK 1) && reads 0xF115 (.ldDtVx 1) && reads 0xF118 (.ldStVx 1) &&
      reads 0xF11E (.addI 1)) = true := by decide
theorem test_decode_familyF_high :
    (reads 0xF129 (.ldF 1) && reads 0xF133 (.ldB 1) && reads 0xF155 (.ldMemVx 1) && reads 0xF165 (.ldVxMem 1)) = true := by
  decide

-- ENC-1: the high byte is the one at the lower address; the rest of the bytes is handed on (R34, R46).
theorem test_decode_bytes :
    (match decodeBytes [0x12, 0x34, 0x56] with
      | .ok r => r == (.jp 0x234, [0x56])
      | .error _ => false) = true := by decide
theorem test_decode_bytes_truncated :
    (match decodeBytes [0x12] with
      | .ok _ => false
      | .error e => e == .truncated) = true := by decide
theorem test_decode_table_word : decodeTableWord 16 0x8014 = some (.addReg 0 1) ∧ decodeTableWord 16 0x5121 = none := by
  decide

/-! ## The cycle (CYC vectors) -/

-- CYC-1: a tick of the bare reset state.
theorem test_cycle_bare_reset :
    (faults (step State.reset) (.illegalOpcode 0) &&
      (afterError (.illegalOpcode 0) State.reset).pc == 0x202) = true := by decide
-- CYC-2: the fetch at 4094 is the last legal one.
theorem test_cycle_last_fetch :
    nextIs (step (atWord 0x6007 (jump 0xFFE))) (fun t => readV 0 t == 7 && t.pc == 0x1000) = true := by decide
-- CYC-4, ERR-7: at 4095 the fetch bound is reported, never the word.
theorem test_cycle_fetch_bound :
    faults (step (jump 0xFFF State.reset)) (.programCounterOutOfRange 0xFFF) = true := by decide
-- CYC-6: an odd pc.
theorem test_cycle_odd_pc :
    nextIs (step (atWord 0x6A42 (jump 0x201))) (fun t => readV 0xA t == 0x42 && t.pc == 0x203) = true := by decide
-- ERR-2: the word is surfaced and pc is past it.
theorem test_cycle_illegal :
    (faults (step (atWord 0x5121 id)) (.illegalOpcode 0x5121) &&
      (call (.tick 0) (atWord 0x5121 id)).1.pc == 0x202) = true := by decide
-- The code numbers of R130.
theorem test_error_codes :
    [.programCounterOutOfRange 0, .illegalOpcode 0, .stackOverflow, .stackUnderflow, .memoryOutOfRange 0,
      .imageTooLarge 0].map errorCode = [some 1, some 2, some 3, some 4, some 5, some 6] := by decide

/-! ## Control flow (FLW vectors) -/

-- FLW-1
theorem test_jp : nextIs (step (atWord 0x1ABC id)) (fun t => t.pc == 0xABC && t.sp == 0) = true := by decide
-- FLW-5, FLW-6
theorem test_call_last_entry :
    nextIs (step (atWord 0x2300 (withStack 15)))
      (fun t => t.stack[15]? == some 0x202 && t.sp == 16 && t.pc == 0x300) = true := by decide
theorem test_call_overflow : faults (step (atWord 0x2300 (withStack 16))) .stackOverflow = true := by decide
-- FLW-7 (with the entry 0x202), FLW-8
theorem test_ret :
    nextIs (step (atWord 0x00EE (withStack 1)))
      (fun t => t.pc == 0x202 && t.sp == 0 && t.stack[0]? == some 0x202) = true := by decide
theorem test_ret_underflow : faults (step (atWord 0x00EE id)) .stackUnderflow = true := by decide
-- FLW-10, FLW-11
theorem test_se_imm_skips : nextIs (step (atWord 0x3342 (writeV 3 0x42))) (fun t => t.pc == 0x204) = true := by decide
theorem test_se_imm_goes_on : nextIs (step (atWord 0x3342 (writeV 3 0x41))) (fun t => t.pc == 0x202) = true := by decide
-- FLW-12, FLW-13
theorem test_sne_imm_goes_on : nextIs (step (atWord 0x4342 (writeV 3 0x42))) (fun t => t.pc == 0x202) = true := by decide
theorem test_sne_imm_skips : nextIs (step (atWord 0x4342 (writeV 3 0x41))) (fun t => t.pc == 0x204) = true := by decide
-- FLW-14, FLW-15
theorem test_se_reg_skips :
    nextIs (step (atWord 0x5120 (writeV 1 7 ∘ writeV 2 7))) (fun t => t.pc == 0x204) = true := by decide
theorem test_se_reg_goes_on :
    nextIs (step (atWord 0x5120 (writeV 1 7 ∘ writeV 2 8))) (fun t => t.pc == 0x202) = true := by decide
-- FLW-17, FLW-18
theorem test_sne_reg_skips :
    nextIs (step (atWord 0x9120 (writeV 1 7 ∘ writeV 2 8))) (fun t => t.pc == 0x204) = true := by decide
theorem test_sne_reg_goes_on :
    nextIs (step (atWord 0x9120 (writeV 1 7 ∘ writeV 2 7))) (fun t => t.pc == 0x202) = true := by decide
-- FLW-21, FLW-22
theorem test_jp_v0_not_masked : nextIs (step (atWord 0xBFFF (writeV 0 0xFF))) (fun t => t.pc == 0x10FE) = true := by decide
theorem test_jp_v0_uses_v0 : nextIs (step (atWord 0xB300 (writeV 3 0x55))) (fun t => t.pc == 0x300) = true := by decide

/-! ## Loads and arithmetic (ALU vectors) -/

-- ALU-23
theorem test_ld_imm :
    nextIs (step (atWord 0x6A42 (writeV 0xA 0x99 ∘ writeV 0xF 9)))
      (fun t => readV 0xA t == 0x42 && readV 0xF t == 9) = true := by decide
-- ALU-25, ALU-26
theorem test_add_imm_wraps :
    nextIs (step (atWord 0x7105 (writeV 1 0xFE ∘ writeV 0xF 9)))
      (fun t => readV 1 t == 3 && readV 0xF t == 9) = true := by decide
theorem test_add_imm_vf : nextIs (step (atWord 0x7FFF id)) (fun t => readV 0xF t == 0xFF) = true := by decide
-- ALU-27
theorem test_ld_reg :
    nextIs (step (atWord 0x8120 (writeV 2 0x7C))) (fun t => readV 1 t == 0x7C && readV 2 t == 0x7C) = true := by decide
-- ALU-28, ALU-29, ALU-30, ALU-31
theorem test_or :
    nextIs (step (atWord 0x8121 (writeV 1 0xF0 ∘ writeV 2 0x0F ∘ writeV 0xF 9)))
      (fun t => readV 1 t == 0xFF && readV 0xF t == 9) = true := by decide
theorem test_and :
    nextIs (step (atWord 0x8122 (writeV 1 0xF0 ∘ writeV 2 0x3C ∘ writeV 0xF 9)))
      (fun t => readV 1 t == 0x30 && readV 0xF t == 9) = true := by decide
theorem test_xor :
    nextIs (step (atWord 0x8123 (writeV 1 0xF0 ∘ writeV 2 0x3C ∘ writeV 0xF 9)))
      (fun t => readV 1 t == 0xCC && readV 0xF t == 9) = true := by decide
theorem test_xor_itself : nextIs (step (atWord 0x8113 (writeV 1 0xF0))) (fun t => readV 1 t == 0) = true := by decide
-- ALU-3, ALU-6
theorem test_add_reg_carry :
    nextIs (step (atWord 0x8014 (writeV 0 0xFF ∘ writeV 1 0xFF)))
      (fun t => readV 0 t == 0xFE && readV 0xF t == 1) = true := by decide
theorem test_add_reg_vf :
    nextIs (step (atWord 0x8F14 (writeV 0xF 0x90 ∘ writeV 1 0x80))) (fun t => readV 0xF t == 1) = true := by decide
-- ALU-9, ALU-10
theorem test_sub_borrow :
    nextIs (step (atWord 0x8125 (writeV 1 0x10 ∘ writeV 2 0x20)))
      (fun t => readV 1 t == 0xF0 && readV 2 t == 0x20 && readV 0xF t == 0) = true := by decide
theorem test_sub_equal :
    nextIs (step (atWord 0x8125 (writeV 1 0x33 ∘ writeV 2 0x33)))
      (fun t => readV 1 t == 0 && readV 0xF t == 1) = true := by decide
-- ALU-14, ALU-15
theorem test_subn :
    nextIs (step (atWord 0x8127 (writeV 1 0x10 ∘ writeV 2 0x20)))
      (fun t => readV 1 t == 0x10 && readV 2 t == 0x20 && readV 0xF t == 1) = true := by decide
theorem test_subn_borrow :
    nextIs (step (atWord 0x8127 (writeV 1 0x20 ∘ writeV 2 0x10)))
      (fun t => readV 1 t == 0xF0 && readV 0xF t == 0) = true := by decide
-- ALU-17 and ALU-20, for both values of `SHIFT_SRC`
theorem test_shr :
    (nextIs (step (atWord 0x8126 (writeV 1 5 ∘ writeV 2 8)))
      (fun t => readV 1 t == 2 && readV 2 t == 8 && readV 0xF t == 1) &&
      nextIs (step (atWord 0x8126 (writeV 1 5 ∘ writeV 2 8 ∘ withShiftSrc .vy)))
        (fun t => readV 1 t == 4 && readV 2 t == 8 && readV 0xF t == 0 && t.shiftSrc == .vy)) = true := by decide
theorem test_shl :
    (nextIs (step (atWord 0x812E (writeV 1 0x81 ∘ writeV 2 0x40)))
      (fun t => readV 1 t == 2 && readV 2 t == 0x40 && readV 0xF t == 1) &&
      nextIs (step (atWord 0x812E (writeV 1 0x81 ∘ writeV 2 0x40 ∘ withShiftSrc .vy)))
        (fun t => readV 1 t == 0x80 && readV 2 t == 0x40 && readV 0xF t == 0 && t.shiftSrc == .vy)) = true := by decide
-- ALU-19, ALU-22
theorem test_shr_vf : nextIs (step (atWord 0x8FF6 (writeV 0xF 2))) (fun t => readV 0xF t == 0) = true := by decide
theorem test_shl_vf : nextIs (step (atWord 0x8FFE (writeV 0xF 0x80))) (fun t => readV 0xF t == 1) = true := by decide
-- ALU-32 (the host names the draw), ALU-33 (the draw is free and masked away)
theorem test_rnd_named :
    nextIs (step (withHost [.tick 0xA7] (atWord 0xC30F id))) (fun t => readV 3 t == 7 && t.pc == 0x202) = true := by decide
theorem test_rnd_free : nextIs (step (atWord 0xC3FF id)) (fun t => t.pc == 0x202 && t.draws == 1) = true := by decide

/-! ## Index register and memory (IDX vectors) -/

-- IDX-1
theorem test_ld_i : nextIs (step (atWord 0xA300 (writeI 0xFFFF))) (fun t => t.i == 0x300) = true := by decide
-- IDX-3, IDX-4
theorem test_add_i_past_fff :
    nextIs (step (atWord 0xF21E (writeI 0xFFF ∘ writeV 2 1 ∘ writeV 0xF 9)))
      (fun t => t.i == 0x1000 && readV 0xF t == 9) = true := by decide
theorem test_add_i_wraps :
    nextIs (step (atWord 0xF21E (writeI 0xFFFF ∘ writeV 2 1))) (fun t => t.i == 0) = true := by decide
-- IDX-5, IDX-6
theorem test_ld_f : nextIs (step (atWord 0xF429 (writeV 4 0x0A))) (fun t => t.i == 0x32) = true := by decide
theorem test_ld_f_low_nibble : nextIs (step (atWord 0xF429 (writeV 4 0xFF))) (fun t => t.i == 0x4B) = true := by decide
-- IDX-7 at the highest legal I of IDX-10, IDX-11
theorem test_ld_b :
    nextIs (step (atWord 0xF033 (writeI 0xFFD ∘ writeV 0 0xFF)))
      (fun t => readBytes 0xFFD 3 t == [2, 5, 5] && t.i == 0xFFD) = true := by decide
theorem test_ld_b_past_end :
    faults (step (atWord 0xF033 (writeI 0xFFE ∘ writeV 0 0x7B))) (.memoryOutOfRange 0x1000) = true := by decide
-- IDX-12, IDX-17
theorem test_store :
    nextIs (step (atWord 0xF255 (writeI 0x400 ∘ writeVs 0 [0x11, 0x22, 0x33, 0x44])))
      (fun t => readBytes 0x400 4 t == [0x11, 0x22, 0x33, 0] && t.i == 0x400) = true := by decide
theorem test_store_far :
    faults (step (atWord 0xF055 (writeI 0x2345))) (.memoryOutOfRange 0x2345) = true := by decide
-- IDX-19, IDX-21
theorem test_load_keeps_above :
    nextIs (step (atWord 0xF265 (writeI 0x400 ∘ writeBytes 0x400 [1, 2, 3, 4] ∘ writeV 3 0x99)))
      (fun t => readVs 3 t == [1, 2, 3, 0x99]) = true := by decide
theorem test_load_font :
    nextIs (step (atWord 0xFF65 id)) (fun t => readVs 15 t ==
      [0xF0, 0x90, 0x90, 0x90, 0xF0, 0x20, 0x60, 0x20, 0x20, 0x70, 0xF0, 0x10, 0xF0, 0x80, 0xF0, 0xF0]) = true := by decide
-- Writing the reset contents back removes the cell: the canonical form.
theorem test_memory_canonical :
    (writeByte 1 0x90 (writeByte 0 0xF0 (writeByte 0 0xAB State.reset))).mem = [] := by decide

/-! ## Display (DRW vectors) -/

-- DRW-13
theorem test_cls :
    nextIs (step (atWord 0x00E0 (lit 63 31 ∘ lit 0 0 ∘ writeV 0xF 9)))
      (fun t => rowWord 0 t == 0 && rowWord 31 t == 0 && readV 0xF t == 9) = true := by decide +kernel
-- DRW-1, DRW-7
theorem test_drw_wraps :
    nextIs (step (atWord 0xD011 (writeI 0x300 ∘ writeByte 0x300 0xFF ∘ writeV 0 62)))
      (fun t => rowWord 0 t == 0xFC00000000000003 && readV 0xF t == 0) = true := by decide +kernel
theorem test_drw_collides :
    nextIs (step (atWord 0xD011 (writeI 0x300 ∘ writeByte 0x300 0xF0 ∘ lit 3 0 ∘ lit 4 0)))
      (fun t => rowWord 0 t == 0xE800000000000000 && readV 0xF t == 1) = true := by decide +kernel

/-! ## Keypad and timers (KEY and TMR vectors) -/

-- KEY-2, KEY-5
theorem test_skp_up : nextIs (step (atWord 0xE19E (writeV 1 5))) (fun t => t.pc == 0x202) = true := by decide
theorem test_skp_low_nibble :
    nextIs (step (atWord 0xE19E (writeV 1 0x15 ∘ writeKey 5 true))) (fun t => t.pc == 0x204) = true := by decide
-- KEY-3, KEY-4
theorem test_sknp_up : nextIs (step (atWord 0xE1A1 (writeV 1 5))) (fun t => t.pc == 0x204) = true := by decide
theorem test_sknp_down :
    nextIs (step (atWord 0xE1A1 (writeV 1 5 ∘ writeKey 5 true))) (fun t => t.pc == 0x202) = true := by decide
-- P7, steps 1, 5, 6 and 8
theorem test_wait_entered :
    nextIs (step (atWord 0xF30A (writeKey 5 true)))
      (fun t => t.pc == 0x200 && t.wait == .awaitingKey 3 && t.keyLatch == none) = true := by decide
theorem test_wait_resolved :
    nextIs (step (writeWait (.awaitingKey 3) (writeLatch (some 0xA) State.reset)))
      (fun t => t.pc == 0x202 && t.wait == .running && t.keyLatch == none && readV 3 t == 0x0A) = true := by decide
theorem test_keypress_first_wins :
    (keypress 0xB true (keypress 0xA true (writeWait (.awaitingKey 3) State.reset))).keyLatch = some 0xA := by decide
theorem test_keypress_held_is_no_transition :
    (keypress 5 true (writeWait (.awaitingKey 3) (writeKey 5 true State.reset))).keyLatch = none := by decide
-- TMR-1, TMR-2, TMR-3
theorem test_ld_vx_dt : nextIs (step (atWord 0xF207 (writeDt 0x3C))) (fun t => readV 2 t == 0x3C && t.dt == 0x3C) = true := by
  decide
theorem test_ld_dt_vx : nextIs (step (atWord 0xF215 (writeV 2 0x3C))) (fun t => t.dt == 0x3C && t.st == 0) = true := by decide
theorem test_ld_st_vx : nextIs (step (atWord 0xF218 (writeV 2 5))) (fun t => t.st == 5 && t.dt == 0) = true := by decide
-- TMR-4 (third call), TMR-5
theorem test_timers_stop_at_zero :
    (tickTimers (writeDt 1 State.reset)).dt = 0 ∧ (tickTimers (writeDt 1 State.reset)).st = 0 := by decide
theorem test_timers_decrement :
    nextIs (step (withHost [.tickTimers] (writeDt 0xFF (writeSt 0xFF State.reset))))
      (fun t => t.dt == 0xFE && t.st == 0xFE && t.pc == 0x200) = true := by decide

/-! ## Host operations -/

-- KEY-8
theorem test_reset_ends_wait :
    nextIs (step (withHost [.reset] (writeWait (.awaitingKey 3) (writeLatch (some 0xA) (jump 0x444 State.reset)))))
      (fun t => t.wait == .running && t.keyLatch == none && t.pc == 0x200) = true := by decide
-- ERR-6, R163
theorem test_load :
    nextIs (step (withHost [.load [0x60, 5]] State.reset))
      (fun t => readBytes 0x200 3 t == [0x60, 5, 0] && t.pc == 0x200) = true := by decide
theorem test_load_too_large :
    faults (step (withHost [.load (List.replicate 3585 0)] State.reset)) (.imageTooLarge 3585) = true := by
  decide +kernel
-- R151, from P2: glyph 0 at the origin lights the flat indices 0 to 3, 64 and 67 first.
theorem test_read_display :
    nextIs (exec (.drw 0 0 5) State.reset)
      (fun t => (readDisplay t).take 68 == [true, true, true, true] ++ List.replicate 60 false ++ [true, false, false, true]
        && (readDisplay t).count true == 14) = true := by
  decide +kernel

/-! ## Witnesses: the hypotheses of each statement can be met

The name after `test_wit_` is the statement's; a word after it names the clause. -/

/-- The invariant of a running machine, as a finite check. -/
theorem inv_of_running {s : State}
    (h : Memory.wf s.mem ∧ s.sp.toNat ≤ 16 ∧ s.pc.toNat ≤ 0x10FE ∧
      (∀ k : Fin 16, k.val < s.sp.toNat → 2 ≤ (s.stack[k.val]).toNat ∧ (s.stack[k.val]).toNat ≤ 4096) ∧
      s.wait = .running ∧ s.keyLatch = none) : MachineInv s := by
  obtain ⟨hm, hsp, hpc, hst, hw, hl⟩ := h
  refine ⟨hm, hsp, hpc, ?_, fun _ => hl, ?_⟩
  · intro k w hk hkw
    have hk16 : k < 16 := by omega
    have := hst ⟨k, hk16⟩ hk
    simp only [Vector.getElem?_eq_getElem hk16, Option.some.injEq] at hkw
    subst hkw
    exact this
  · intro x hx
    rw [hw] at hx
    cases hx

theorem test_wit_DecodedWordIsTheEncoding : decode 0x8014 = .ok (.addReg 0 1) := by decide
theorem test_wit_DecoderAcceptsExactlyTheOpcodeMap :
    (⟨"SHL_Vx____Vy", 0xF00F, 0x800E⟩ : Row) ∈ opcodeMap ∧ Row.matches ⟨"SHL_Vx____Vy", 0xF00F, 0x800E⟩ 0x812E = true := by
  decide

/-- Running at `ADD V0, V1`. -/
def addState : State := atWord 0x8014 (writeV 0 5 ∘ writeV 1 3)

theorem test_wit_StepRunsTheDecodedInstruction_alone :
    addState.wait = .running ∧ fetch addState = some 0x8014 ∧ decode 0x8014 = .ok (.addReg 0 1) ∧ addState.host = [] := by
  decide
theorem test_wit_StepRunsTheDecodedInstruction_called :
    (withHost [.tick 7, .reset] addState).wait = .running ∧ fetch (withHost [.tick 7, .reset] addState) = some 0x8014 ∧
      decode 0x8014 = .ok (.addReg 0 1) ∧ (withHost [.tick 7, .reset] addState).host = .tick 7 :: [.reset] := by decide
theorem test_wit_StepPerformsTheNextHostCall :
    State.reset.host = [] ∧
      ([.tick 7, .tickTimers, .keypress 5 true, .reset, .readDisplay, .load [0x60, 5]] : List HostOp).all
        (fun op => (withHost [op, .tickTimers] addState).host == op :: [.tickTimers]) = true ∧
      withHost [.tick 0] State.reset = hostReset (withHost [.tick 0] State.reset) := by decide
theorem test_wit_FetchChecksThenReadsBigEndian_fails :
    (jump 4095 State.reset).wait = .running ∧ 4095 ≤ (jump 4095 State.reset).pc.toNat := by decide
theorem test_wit_FetchChecksThenReadsBigEndian_reads :
    (jump 4094 State.reset).wait = .running ∧ (jump 4094 State.reset).pc.toNat ≤ 4094 := by decide
theorem test_wit_IllegalOpcodeIsSurfaced_illegal :
    (atWord 0x5121 id).wait = .running ∧ fetch (atWord 0x5121 id) = some 0x5121 ∧ ¬ ∃ i, decode 0x5121 = .ok i :=
  ⟨rfl, by decide, by rintro ⟨i, h⟩; cases h⟩
theorem test_wit_IllegalOpcodeIsSurfaced_legal :
    addState.wait = .running ∧ fetch addState = some 0x8014 ∧ ∃ i, decode 0x8014 = .ok i :=
  ⟨rfl, by decide, .addReg 0 1, rfl⟩
theorem test_wit_ErrorsChangeOnlyPc_fetch :
    ∃ t, call (.tick 0) (jump 4095 State.reset) = (t, .error (.programCounterOutOfRange 4095)) := ⟨_, rfl⟩
/-- `load` of an image of 3585 bytes or more, at launch. -/
theorem load_too_large (img : List Byte) (h : 3584 < img.length) :
    call (.load img) State.reset = (State.reset, .error (.imageTooLarge img.length)) := by
  have hr : launchReady State.reset = true := by decide
  have e : serve (.load img) State.reset = .fault (.imageTooLarge img.length) := by
    simp [serve, hr, load, raise, h]
  simp only [call, e]
  rfl
theorem test_wit_ErrorsChangeOnlyPc_load :
    ∃ t n, call (.load (List.replicate 3585 0)) State.reset = (t, .error (.imageTooLarge n)) :=
  ⟨_, _, load_too_large _ (lt_of_lt_of_eq (by decide) List.length_replicate.symm)⟩
theorem test_wit_ErrorsChangeOnlyPc_execute :
    ∃ t, call (.tick 0) (atWord 0xF055 (writeI 0x1000)) = (t, .error (.memoryOutOfRange 0x1000)) := ⟨_, rfl⟩

theorem test_wit_TickErrorsHaveTheirCause_fetch :
    MachineInv (jump 4095 State.reset) ∧ tick (jump 4095 State.reset) = .fault (.programCounterOutOfRange 4095) :=
  ⟨inv_of_running (by decide), rfl⟩
theorem test_wit_TickErrorsHaveTheirCause_illegal :
    MachineInv (atWord 0x5121 id) ∧ tick (atWord 0x5121 id) = .fault (.illegalOpcode 0x5121) :=
  ⟨inv_of_running (by decide), rfl⟩
theorem test_wit_TickErrorsHaveTheirCause_overflow :
    MachineInv (atWord 0x2300 (withStack 16)) ∧ tick (atWord 0x2300 (withStack 16)) = .fault .stackOverflow :=
  ⟨inv_of_running (by decide), rfl⟩
theorem test_wit_TickErrorsHaveTheirCause_underflow :
    MachineInv (atWord 0x00EE id) ∧ tick (atWord 0x00EE id) = .fault .stackUnderflow :=
  ⟨inv_of_running (by decide), rfl⟩
theorem test_wit_TickErrorsHaveTheirCause_ldB :
    MachineInv (atWord 0xF033 (writeI 0xFFE)) ∧ tick (atWord 0xF033 (writeI 0xFFE)) = .fault (.memoryOutOfRange 0x1000) :=
  ⟨inv_of_running (by decide), rfl⟩
theorem test_wit_TickErrorsHaveTheirCause_store :
    MachineInv (atWord 0xF155 (writeI 0xFFF)) ∧ tick (atWord 0xF155 (writeI 0xFFF)) = .fault (.memoryOutOfRange 0x1000) :=
  ⟨inv_of_running (by decide), rfl⟩
theorem test_wit_TickErrorsHaveTheirCause_load :
    MachineInv (atWord 0xFF65 (writeI 0xFF1)) ∧ tick (atWord 0xFF65 (writeI 0xFF1)) = .fault (.memoryOutOfRange 0x1000) :=
  ⟨inv_of_running (by decide), rfl⟩
theorem test_wit_TickErrorsHaveTheirCause_drw :
    MachineInv (atWord 0xD001 (writeI 0x1000)) ∧ tick (atWord 0xD001 (writeI 0x1000)) = .fault (.memoryOutOfRange 0x1000) :=
  ⟨inv_of_running (by decide), rfl⟩
theorem test_wit_OnlyALateLoadIsRefused :
    step (withHost [.load [0x60]] (writeV 0 1 State.reset)) = .refused .loadOutsideLaunch := by
  have h : launchReady (withHost [] (withHost [.load [0x60]] (writeV 0 1 State.reset))) = false := by decide
  have e : step (withHost [.load [0x60]] (writeV 0 1 State.reset)) =
      serve (.load [0x60]) (withHost [] (withHost [.load [0x60]] (writeV 0 1 State.reset))) := rfl
  rw [e, serve, h]
  rfl

theorem test_wit_CallPushesTheAdvancedPc :
    (withStack 15 State.reset).sp.toNat < 16 ∧ (withStack 16 State.reset).sp.toNat = 16 ∧
      16 < (withStack 17 State.reset).sp.toNat := by decide
theorem test_wit_ReturnPopsIntoPc :
    State.reset.sp.toNat = 0 ∧ (0 < (withStack 1 State.reset).sp.toNat ∧ (withStack 1 State.reset).sp.toNat ≤ 16) ∧
      (0 < (withStack 16 State.reset).sp.toNat ∧ (withStack 16 State.reset).sp.toNat ≤ 16) ∧
      16 < (withStack 17 State.reset).sp.toNat := by decide
theorem test_wit_SkipsOnRegister : (1 : Nibble) ≠ 0 ∧ (0xF : Nibble) ≠ 0 := by decide
-- Inside the subroutine a CALL to 0x400 stood at 0x300 and has returned: the dead entry above SP holds 0x302.
theorem test_wit_ReturnGoesBackAfterTheCall :
    ∃ t u : State, exec (.call 0x300) State.reset = .next t ∧ u.sp = t.sp ∧
      (∀ k, k < t.sp.toNat → u.stack[k]? = t.stack[k]?) ∧ u.stack ≠ t.stack :=
  ⟨_, jump 0x302 (dropTop (push 0x302 (jump 0x300 (push 0x200 State.reset)))), rfl, by decide, by decide, by decide⟩
theorem test_wit_SixteenCallsThenOverflow :
    State.reset.sp = 0 ∧ (List.replicate 16 (0x200 : Addr12)).length = 16 := by decide

theorem test_wit_LogicIsBitwiseWithoutFlag : 0 < 8 ∧ 7 < 8 := by decide
theorem test_wit_AddRegisterSetsCarry : (0xE : Nibble) ≠ vf := by decide
theorem test_wit_SubtractionsSetNotBorrow : (0 : Nibble) ≠ vf := by decide
theorem test_wit_ShiftsMoveOneBitIntoVF_vx :
    (writeV 1 5 (writeV 2 8 State.reset)).shiftSrc = .vx ∧
      (5 : Byte) = readV 1 (writeV 1 5 (writeV 2 8 State.reset)) ∧ (1 : Nibble) ≠ vf := by decide
theorem test_wit_ShiftsMoveOneBitIntoVF_vy :
    (withShiftSrc .vy (writeV 1 5 (writeV 2 8 State.reset))).shiftSrc = .vy ∧
      (8 : Byte) = readV 2 (withShiftSrc .vy (writeV 1 5 (writeV 2 8 State.reset))) ∧ (1 : Nibble) ≠ vf := by decide
theorem test_wit_ShiftSrcIsAFixedParameter :
    (∀ x y, Instr.ret ≠ .shr x y ∧ Instr.ret ≠ .shl x y) ∧ (∃ t, step addState = .next t) ∧
      (∃ t, exec .ret (withStack 1 State.reset) = .next t) ∧ exec .ret State.reset = .fault .stackUnderflow :=
  ⟨fun _ _ => ⟨fun h => Instr.noConfusion h, fun h => Instr.noConfusion h⟩, ⟨_, rfl⟩, ⟨_, rfl⟩, rfl⟩
theorem test_wit_RandomIsTheDrawMasked :
    (withDraw (some 0xA7) State.reset).rnd = some 0xA7 ∧ (withDraw none State.reset).rnd = none := by decide

theorem test_wit_DecimalDigitsAreStored : (writeI 0xFFD State.reset).i.toNat + 2 < 4096 := by decide
theorem test_wit_RegistersAreStored :
    (writeI 0xFF0 State.reset).i.toNat + (0xF : Nibble).toNat < 4096 ∧ (0xF : Nibble).toNat ≤ (0xF : Nibble).toNat := by
  decide
theorem test_wit_RegistersAreLoaded :
    (writeI 0xFFD State.reset).i.toNat + (2 : Nibble).toNat < 4096 ∧ (2 : Nibble).toNat ≤ (2 : Nibble).toNat ∧
      (2 : Nibble).toNat < (3 : Nibble).toNat := by decide
theorem test_wit_RangesPastTheEndFault_ldB : 4096 ≤ (writeI 0xFFE State.reset).i.toNat + 2 := by decide
theorem test_wit_RangesPastTheEndFault_block :
    4096 ≤ (writeI 0xFFF State.reset).i.toNat + (1 : Nibble).toNat ∧
      4096 ≤ (writeI 0x1000 State.reset).i.toNat + (0 : Nibble).toNat := by decide
theorem test_wit_RangesPastTheEndFault_drw :
    0 < (1 : Nibble).toNat ∧ 4096 < (writeI 0x1000 State.reset).i.toNat + (1 : Nibble).toNat := by decide
theorem test_wit_StoreThenLoadRestoresRegisters :
    ∃ t u : State, exec (.ldMemVx 1) (writeI 0x400 (writeV 1 7 State.reset)) = .next t ∧ u.i = t.i ∧ u.mem = t.mem ∧
      readV 1 u ≠ readV 1 t :=
  ⟨_, writeV 1 9 (writeBytes 0x400 [0, 7] (writeI 0x400 (writeV 1 7 State.reset))), rfl, rfl, rfl, by decide⟩
-- V0, V1 = 60 55 stored from 0x206 on: a fetch at 0x205 takes its second byte from them, one at 0x207 its first.
theorem test_wit_StoreIsSeenByTheNextFetch_store :
    ∃ t u w : State, exec (.ldMemVx 1) (writeI 0x206 (writeV 0 0x60 (writeV 1 0x55 State.reset))) = .next t ∧
      u.mem = t.mem ∧ u.pc.toNat = 0x205 ∧ fetch u = some 0x0060 ∧ w.mem = t.mem ∧ w.pc.toNat = 0x207 ∧
      fetch w = some 0x5500 :=
  ⟨_, jump 0x205 (writeBytes 0x206 [0x60, 0x55] State.reset), jump 0x207 (writeBytes 0x206 [0x60, 0x55] State.reset),
    rfl, rfl, by decide, by decide, rfl, by decide, by decide⟩
-- The digits 2, 5, 5 of 0xFF stored in the last three bytes of memory, fetched at 4094.
theorem test_wit_StoreIsSeenByTheNextFetch_digits :
    ∃ t u : State, exec (.ldB 0) (writeI 0xFFD (writeV 0 0xFF State.reset)) = .next t ∧ u.mem = t.mem ∧
      u.pc.toNat = 4094 ∧ fetch u = some 0x0505 :=
  ⟨_, jump 0xFFE (writeBytes 0xFFD [2, 5, 5] State.reset), rfl, rfl, by decide, by decide⟩
theorem test_wit_StoreIsSeenByTheNextFetch_other :
    (∀ x, Instr.cls ≠ .ldMemVx x ∧ Instr.cls ≠ .ldB x) ∧ ∃ t, exec .cls State.reset = .next t ∧ t.pc.toNat ≤ 4094 :=
  ⟨fun _ => ⟨fun h => Instr.noConfusion h, fun h => Instr.noConfusion h⟩, _, rfl, by decide⟩
theorem test_wit_CanonicalMemoriesAreEqualData :
    Memory.wf (Memory.write (Memory.write [] 0x300 1) 0x301 2) ∧
      Memory.wf (Memory.write (Memory.write [] 0x301 2) 0x300 1) ∧
      ∀ a, Memory.read (Memory.write (Memory.write [] 0x300 1) 0x301 2) a =
        Memory.read (Memory.write (Memory.write [] 0x301 2) 0x300 1) a :=
  ⟨by decide, by decide, fun _ => rfl⟩

theorem test_wit_DrawFlipsTheCoveredCells_range :
    (0 : Nibble).toNat = 0 ∧ (writeI 0xFFE State.reset).i.toNat + (2 : Nibble).toNat ≤ 4096 := by decide
theorem test_wit_DrawFlipsTheCoveredCells_covered : Covers State.reset 0 1 62 0 1 0 ∧ cell 1 0 (lit 1 0 State.reset).disp = true :=
  ⟨⟨0, 3, by decide, by decide, by decide, by decide, by decide⟩, by decide⟩
theorem test_wit_DrawFlipsTheCoveredCells_uncovered : ¬ Covers State.reset 0 1 62 0 2 0 := by
  rintro ⟨r, c, hr, hc, -, hx, hb⟩
  have h0 : r = 0 := by omega
  have h4 : c = 4 := by omega
  subst h0 h4
  revert hb
  decide
theorem test_wit_DrawingTwiceRestoresTheDisplay :
    ∃ t u : State, exec (.drw 0 0 1) State.reset = .next t ∧ u.i = State.reset.i ∧ u.mem = State.reset.mem ∧ u.disp = t.disp ∧
      readV 0 u = readV 0 State.reset :=
  ⟨_, writeFlag (drawn 0 0 1 State.reset).hit (writeDisp (drawn 0 0 1 State.reset).disp State.reset), rfl, rfl, rfl, rfl, rfl⟩
theorem test_wit_ReadDisplayListsRowByRow : 63 < 64 ∧ 31 < 32 := by decide

theorem test_wit_KeySkipsTestTheLowNibble :
    (5 : Nibble).toNat = (readV 1 (writeV 1 0x15 State.reset)).toNat % 16 ∧
      (0xF : Nibble).toNat = (readV 1 (writeV 1 0xFF State.reset)).toNat % 16 := by decide
theorem test_wit_WaitForKeyIsEntered :
    (atWord 0xF30A id).wait = .running ∧ fetch (atWord 0xF30A id) = some (wordXKK 0xF 3 0x0A) := by decide

/-- Waiting for a key at `LD V3, K`, with one live stack entry. -/
def waiting : State := writeWait (.awaitingKey 3) (atWord 0xF30A (withStack 1))

theorem test_wit_WaitTickResolvesOrRepeats :
    waiting.wait = .awaitingKey 3 ∧ waiting.keyLatch = none ∧ (writeLatch (some 0xA) waiting).wait = .awaitingKey 3 ∧
      (writeLatch (some 0xA) waiting).keyLatch = some 0xA := by decide
theorem test_wit_KeypressRecordsAndLatches_latches :
    (∃ x, waiting.wait = .awaitingKey x) ∧ waiting.keyLatch = none ∧ keyPressed 0xA waiting = false :=
  ⟨⟨3, rfl⟩, by decide, by decide⟩
theorem test_wit_KeypressRecordsAndLatches_keeps :
    State.reset.wait = .running ∧ (writeLatch (some 0xA) waiting).keyLatch ≠ none ∧
      keyPressed 5 (writeKey 5 true waiting) = true := by decide
theorem test_wit_FirstPressResolvesTheWait :
    waiting.wait = .awaitingKey 3 ∧ waiting.keyLatch = none ∧ keyPressed 0xA waiting = false ∧
      ∀ e ∈ [HostOp.keypress 0xB true, .keypress 0xA false, .tickTimers, .readDisplay], isEvent e = true := by decide

theorem test_wit_TimerTickDecrementsNonzeroTimers :
    0 < (writeDt 1 State.reset).dt.toNat ∧ State.reset.dt.toNat = 0 ∧ 0 < (writeSt 0xFF State.reset).st.toNat ∧
      State.reset.st.toNat = 0 := by decide
theorem test_wit_TicksLeaveTimersAndKeys_dt : ∃ t, tick (atWord 0xF215 (writeV 2 9)) = .next t ∧ t.dt = 9 := ⟨_, rfl, rfl⟩
theorem test_wit_TicksLeaveTimersAndKeys_st : ∃ t, tick (atWord 0xF218 (writeV 2 9)) = .next t ∧ t.st = 9 := ⟨_, rfl, rfl⟩
theorem test_wit_TicksLeaveTimersAndKeys_latch :
    ∃ t, tick (writeLatch (some 1) waiting) = .next t ∧ t.keyLatch = none := ⟨_, rfl, rfl⟩

theorem test_wit_ResetGivesTheResetState :
    (0 < 80 ∧ 79 < 80 ∧ fontBase + 80 ≤ 80) ∧ (0 < 16 ∧ 15 < 16) ∧
      (readByte 79 State.reset = 0x80 ∧ readByte 80 State.reset = 0) := by decide
theorem test_wit_LoadCopiesTheImage_fits : (List.replicate 3584 (0 : Byte)).length ≤ 3584 ∧ ([] : List Byte).length ≤ 3584 :=
  ⟨List.length_replicate.le, Nat.zero_le _⟩
theorem test_wit_LoadCopiesTheImage_tooLarge : 3584 < (List.replicate 3585 (0 : Byte)).length :=
  lt_of_lt_of_eq (by decide) List.length_replicate.symm
theorem test_wit_LoadCopiesTheImage_late : addState ≠ hostReset addState := by decide

theorem test_wit_InstructionsWriteOnlyTheirParts :
    ∃ t, exec (.drw 0 0 5) State.reset = .next t ∧ mayWrite (.drw 0 0 5) = [.v, .disp] := ⟨_, rfl, rfl⟩
theorem test_wit_OnlyRandomReadsTheDraw :
    (∀ x kk, Instr.ret ≠ .rnd x kk) ∧ (∃ t, exec .ret (withStack 1 State.reset) = .next t) ∧
      exec .ret State.reset = .fault .stackUnderflow :=
  ⟨fun _ _ h => Instr.noConfusion h, ⟨_, rfl⟩, rfl⟩
theorem test_wit_JumpToItselfEndsTheRun_entry : EndedNormally (atWord 0x1200 id) := ⟨by decide, by decide, by decide⟩
theorem test_wit_JumpToItselfEndsTheRun_last : EndedNormally (atWord 0x1FFE (jump 0xFFE)) := ⟨by decide, by decide, by decide⟩

theorem test_wit_invariant_waiting : MachineInv waiting := by
  have h : MachineInv (atWord 0xF30A (withStack 1)) := inv_of_running (by decide)
  refine ⟨h.1, h.2.1, h.2.2.1, h.2.2.2.1, fun hw => absurd hw (by decide), ?_⟩
  intro x hx
  have hx3 : Wait.awaitingKey 3 = .awaitingKey x := hx
  cases hx3
  decide
theorem test_wit_StepKeepsTheInvariant_running : MachineInv addState ∧ ∃ t, step addState = .next t :=
  ⟨inv_of_running (by decide), _, rfl⟩
theorem test_wit_StepKeepsTheInvariant_waiting : MachineInv waiting ∧ ∃ t, step waiting = .next t :=
  ⟨test_wit_invariant_waiting, _, rfl⟩
theorem test_wit_EveryInterleavingKeepsTheInvariant : MachineInv (atWord 0x2300 (withStack 16)) :=
  inv_of_running (by decide)

end Sys2Proof.Tests
end

section
/-! PROOFS. The statements of 00_scope.md: what a host call and a step are (R9), what is refused (R166), and the parameter
`SHIFT_SRC` (R5, R22). -/

namespace Sys2Proof.Machine

/-! ## Outcomes -/

/-- An outcome with its next state, if it has one, replaced by `f` of it. -/
def mapNext (f : State → State) : Result → Result
  | .next t => .next (f t)
  | .fault e => .fault e
  | .refused r => .refused r

@[simp] theorem mapNext_next (f : State → State) (t : State) : mapNext f (.next t) = .next (f t) := rfl
@[simp] theorem mapNext_fault (f : State → State) (e : Fault) : mapNext f (.fault e) = .fault e := rfl
@[simp] theorem mapNext_refused (f : State → State) (r : Refusal) : mapNext f (.refused r) = .refused r := rfl

/-- The range check looks at the range alone, so it passes on any change of the state it guards. -/
theorem withRange_map (f : State → State) (a n : Nat) (t : State) :
    withRange a n (f t) = mapNext f (withRange a n t) := by
  unfold withRange raise
  cases inMemory a n <;> rfl

/-! ## What an operation can answer -/

/-- RET completes where SP names an entry, and faults otherwise (R71). -/
theorem execRet_next_or_fault (s : State) : (∃ t, execRet s = .next t) ∨ ∃ f, execRet s = .fault f := by
  unfold execRet raise
  split
  · exact .inr ⟨_, rfl⟩
  · cases topEntry s with
    | some w => exact .inl ⟨_, rfl⟩
    | none => exact .inr ⟨_, rfl⟩

/-- CALL completes where an entry is left, and faults otherwise (R73). -/
theorem execCall_next_or_fault (nnn : Addr12) (s : State) :
    (∃ t, execCall nnn s = .next t) ∨ ∃ f, execCall nnn s = .fault f := by
  by_cases hfull : s.sp.toNat = Config.stackDepth
  · exact .inr ⟨_, if_pos hfull⟩
  · unfold execCall
    rw [if_neg hfull]
    by_cases hroom : s.sp.toNat < Config.stackDepth
    · exact .inl ⟨_, if_pos hroom⟩
    · exact .inr ⟨_, if_neg hroom⟩

/-- A range check completes or faults (R107). -/
theorem withRange_next_or_fault (a n : Nat) (t : State) :
    (∃ u, withRange a n t = .next u) ∨ ∃ f, withRange a n t = .fault f :=
  (withRange_cases a n t).imp (fun h => ⟨_, h.2⟩) (fun h => ⟨_, h.2⟩)

/-- An instruction completes or faults. -/
theorem exec_next_or_fault (i : Instr) (s : State) : (∃ t, exec i s = .next t) ∨ ∃ f, exec i s = .fault f := by
  cases i with
  | ret => exact execRet_next_or_fault s
  | call nnn => exact execCall_next_or_fault nnn s
  | drw x y n => exact withRange_next_or_fault _ _ _
  | ldB x => exact withRange_next_or_fault _ _ _
  | ldMemVx x => exact withRange_next_or_fault _ _ _
  | ldVxMem x => exact withRange_next_or_fault _ _ _
  | _ => exact .inl ⟨_, rfl⟩

/-- A tick completes or faults. -/
theorem tick_ne_refused (s : State) (r : Refusal) : tick s ≠ .refused r := by
  rcases tick_cases s with ⟨x, -, e⟩ | ⟨-, -, e⟩ | ⟨op, q, -, -, -, e⟩ | ⟨op, i, -, -, -, e⟩ <;> rw [e]
  · exact nofun
  · exact nofun
  · exact nofun
  · rcases exec_next_or_fault i (advance s) with ⟨t, h⟩ | ⟨f, h⟩ <;> rw [h] <;> exact nofun

/-- At launch a load is performed (R165). -/
theorem serve_load_of_launch {s : State} (h : s = hostReset s) (img : List Byte) : serve (.load img) s = load img s :=
  if_pos (decide_eq_true h)

/-- Elsewhere a load is refused (R166, U9). -/
theorem serve_load_of_late {s : State} (h : s ≠ hostReset s) (img : List Byte) :
    serve (.load img) s = .refused .loadOutsideLaunch :=
  if_neg (by simpa [launchReady] using h)

/-- A load that is performed completes or faults (R163, R164). -/
theorem load_ne_refused (img : List Byte) (s : State) (r : Refusal) : load img s ≠ .refused r := by
  unfold load raise
  split <;> exact nofun

/-- The one call that is refused is a load elsewhere than at launch (R166, U9). -/
theorem serve_refused {op : HostOp} {s : State} {r : Refusal} (h : serve op s = .refused r) :
    r = .loadOutsideLaunch ∧ ∃ img, op = .load img ∧ s ≠ hostReset s := by
  cases op with
  | load img =>
    by_cases hl : s = hostReset s
    · rw [serve_load_of_launch hl] at h
      exact absurd h (load_ne_refused _ _ _)
    · rw [serve_load_of_late hl] at h
      cases h
      exact ⟨rfl, img, rfl, hl⟩
  | tick d => exact absurd h (tick_ne_refused _ _)
  | reset => cases h
  | tickTimers => cases h
  | keypress k p => cases h
  | readDisplay => cases h

/-- The state after a host operation: the next state, the state after the error, or the state as it was (R131). -/
theorem call_state_cases (op : HostOp) (s : State) :
    serve op s = .next (call op s).1 ∨ (∃ f, (call op s).1 = afterError f s) ∨ (call op s).1 = s := by
  unfold call
  cases serve op s with
  | next t => exact .inl rfl
  | fault f => exact .inr (.inl ⟨f, rfl⟩)
  | refused r => exact .inr (.inr rfl)

/-! ## A step and the host's list -/

/-- With no call pending a step is a tick with a free draw. -/
theorem step_of_host_nil {s : State} (h : s.host = []) : step s = tick (withDraw none s) := by
  simp only [step, serveNext, h]

/-- With a call pending a step is that call, on the state without it. -/
theorem step_of_host_cons {s : State} {op : HostOp} {rest : List HostOp} (h : s.host = op :: rest) :
    step s = serve op (withHost rest s) := by
  simp only [step, serveNext, h]

/-! ## Another value of `SHIFT_SRC` instead -/

/-- The skip does not look at `SHIFT_SRC`. -/
theorem skipIf_withShiftSrc (b : Bool) (c : Config.ShiftSrc) (s : State) :
    skipIf b (withShiftSrc c s) = withShiftSrc c (skipIf b s) := by cases b <;> rfl

/-- The count of free draws does not look at `SHIFT_SRC`. -/
theorem useDraw_withShiftSrc (c : Config.ShiftSrc) (s : State) :
    useDraw (withShiftSrc c s) = withShiftSrc c (useDraw s) := by
  simp only [useDraw, withShiftSrc_rnd]
  cases s.rnd <;> rfl

/-- A change of the state that passes the store of a byte passes the store of any bytes. -/
theorem writeBytes_comm {f : State → State} (hf : ∀ a b s, writeByte a b (f s) = f (writeByte a b s))
    (a : Nat) (bs : List Byte) (s : State) : writeBytes a bs (f s) = f (writeBytes a bs s) := by
  induction bs generalizing a s with
  | nil => rfl
  | cons b bs ih => simp only [writeBytes, hf, ih]

/-- A change of the state that passes the write of a register passes the loading of any registers. -/
theorem writeVs_comm {f : State → State} (hf : ∀ x b s, writeV x b (f s) = f (writeV x b s))
    (k : Nat) (bs : List Byte) (s : State) : writeVs k bs (f s) = f (writeVs k bs s) := by
  induction bs generalizing k s with
  | nil => rfl
  | cons b bs ih => simp only [writeVs, hf, ih]

/-- RET looks at the stack, not at `SHIFT_SRC`. -/
theorem execRet_withShiftSrc (c : Config.ShiftSrc) (s : State) :
    execRet (withShiftSrc c s) = mapNext (withShiftSrc c) (execRet s) := by
  have htop : topEntry (withShiftSrc c s) = topEntry s := rfl
  simp only [execRet, raise, withShiftSrc_sp, htop]
  split
  · rfl
  · cases topEntry s <;> rfl

/-- CALL looks at the stack, not at `SHIFT_SRC`. -/
theorem execCall_withShiftSrc (nnn : Addr12) (c : Config.ShiftSrc) (s : State) :
    execCall nnn (withShiftSrc c s) = mapNext (withShiftSrc c) (execCall nnn s) := by
  by_cases hfull : s.sp.toNat = Config.stackDepth
  · simp [execCall, raise, hfull]
  · by_cases hroom : s.sp.toNat < Config.stackDepth
    · simp only [execCall, withShiftSrc_sp, hfull, hroom, if_true, if_false]
      rfl
    · simp [execCall, raise, hfull, hroom]

/-- Any instruction but the two shifts answers the same under another `SHIFT_SRC`, but for its place in the next state. -/
theorem exec_withShiftSrc {i : Instr} (hi : ∀ x y, i ≠ .shr x y ∧ i ≠ .shl x y) (c : Config.ShiftSrc) (s : State) :
    exec i (withShiftSrc c s) = mapNext (withShiftSrc c) (exec i s) := by
  have skips (b : Bool) : Host.Outcome.next (skipIf b (withShiftSrc c s)) =
      mapNext (withShiftSrc c) (.next (skipIf b s)) := congrArg _ (skipIf_withShiftSrc b c s)
  have stores (a n : Nat) (bs : List Byte) : withRange a n (writeBytes a bs (withShiftSrc c s)) =
      mapNext (withShiftSrc c) (withRange a n (writeBytes a bs s)) := by
    rw [writeBytes_comm (fun _ _ _ => rfl), withRange_map]
  have loads (a n : Nat) (bs : List Byte) : withRange a n (writeVs 0 bs (withShiftSrc c s)) =
      mapNext (withShiftSrc c) (withRange a n (writeVs 0 bs s)) := by
    rw [writeVs_comm (fun _ _ _ => rfl), withRange_map]
  cases i with
  | shr x y => exact absurd rfl (hi x y).1
  | shl x y => exact absurd rfl (hi x y).2
  | ret => exact execRet_withShiftSrc c s
  | call nnn => exact execCall_withShiftSrc nnn c s
  | seImm x kk => exact skips _
  | sneImm x kk => exact skips _
  | seReg x y => exact skips _
  | sneReg x y => exact skips _
  | skp x => exact skips _
  | sknp x => exact skips _
  | rnd x kk => exact congrArg _ (useDraw_withShiftSrc c (writeV x (draw s &&& kk) s))
  | drw x y n =>
    exact withRange_map (withShiftSrc c) (baseI s) n.toNat
      (writeFlag (drawn x y n s).hit (writeDisp (drawn x y n s).disp s))
  | ldB x => exact stores _ _ _
  | ldMemVx x => exact stores _ _ _
  | ldVxMem x => exact loads _ _ _
  | _ => rfl

/-! ## `SHIFT_SRC` is kept -/

/-- An instruction keeps `SHIFT_SRC`. Where it is no shift: the state with its own `SHIFT_SRC` instead is itself, so by
`exec_withShiftSrc` the next state has that value. -/
theorem exec_shiftSrc {i : Instr} {s t : State} (h : exec i s = .next t) : t.shiftSrc = s.shiftSrc := by
  by_cases hi : ∀ x y, i ≠ .shr x y ∧ i ≠ .shl x y
  · have hself : exec i s = mapNext (withShiftSrc s.shiftSrc) (exec i s) := exec_withShiftSrc hi s.shiftSrc s
    rw [h, mapNext_next] at hself
    have ht : t = withShiftSrc s.shiftSrc t := by injection hself
    rw [ht, withShiftSrc_shiftSrc]
  · cases i with
    | shr x y => cases h; rfl
    | shl x y => cases h; rfl
    | _ => exact absurd (fun _ _ => ⟨nofun, nofun⟩) hi

/-- A tick keeps `SHIFT_SRC`. -/
theorem tick_shiftSrc {s t : State} (h : tick s = .next t) : t.shiftSrc = s.shiftSrc := by
  rcases tick_cases s with ⟨x, -, e⟩ | ⟨-, -, e⟩ | ⟨op, r, -, -, -, e⟩ | ⟨op, i, -, -, -, e⟩ <;> rw [e] at h
  · cases h; exact waitTick_shiftSrc x s
  · cases h
  · cases h
  · exact (exec_shiftSrc h).trans (advance_shiftSrc s)

/-- Storing bytes keeps `SHIFT_SRC`. -/
@[simp] theorem writeBytes_shiftSrc (a : Nat) (bs : List Byte) (s : State) :
    (writeBytes a bs s).shiftSrc = s.shiftSrc := by rw [writeBytes_eq]

/-- A key press keeps `SHIFT_SRC`. -/
@[simp] theorem keypress_shiftSrc (k : Nibble) (p : Bool) (s : State) : (keypress k p s).shiftSrc = s.shiftSrc := by
  rcases keypress_eq k p s with e | ⟨-, e⟩ <;> simp [e]

/-- An error keeps `SHIFT_SRC` (R131). -/
@[simp] theorem afterError_shiftSrc (f : Fault) (s : State) : (afterError f s).shiftSrc = s.shiftSrc := by
  rcases afterError_eq f s with e | e <;> simp [e]

/-- A host call that answers a next state keeps `SHIFT_SRC`. -/
theorem serve_shiftSrc {op : HostOp} {s t : State} (h : serve op s = .next t) : t.shiftSrc = s.shiftSrc := by
  rcases serve_next h with ⟨-, rfl⟩ | ⟨img, -, -, -, rfl⟩ | ⟨r, -, ht⟩ | ⟨-, rfl⟩ | ⟨k, p, -, rfl⟩ | ⟨-, rfl⟩
  · exact hostReset_shiftSrc s
  · exact writeBytes_shiftSrc _ _ _
  · exact (tick_shiftSrc ht).trans (withDraw_shiftSrc _ _)
  · rfl
  · exact keypress_shiftSrc k p s
  · rfl

/-- A host operation keeps `SHIFT_SRC`, errors included. -/
theorem call_shiftSrc (op : HostOp) (s : State) : (call op s).1.shiftSrc = s.shiftSrc := by
  rcases call_state_cases op s with h | ⟨f, h⟩ | h
  · exact serve_shiftSrc h
  · rw [h, afterError_shiftSrc]
  · rw [h]

/-- A step that answers a next state keeps `SHIFT_SRC`. -/
theorem step_shiftSrc {s t : State} (h : step s = .next t) : t.shiftSrc = s.shiftSrc := by
  rcases step_cases s with ⟨-, e⟩ | ⟨op, rest, -, e⟩ <;> rw [e] at h
  · exact (tick_shiftSrc h).trans (withDraw_shiftSrc _ _)
  · exact (serve_shiftSrc h).trans (withHost_shiftSrc _ _)

/-! ## The statements -/

/-- Settles O12: a tick and a performed load are never refused, and no other call can be. -/
theorem onlyALateLoadIsRefused : Obligations.OnlyALateLoadIsRefused := by
  intro s r h
  rcases step_cases s with ⟨-, e⟩ | ⟨op, rest, hs, e⟩ <;> rw [e] at h
  · exact absurd h (tick_ne_refused _ _)
  · obtain ⟨hr, img, rfl, hl⟩ := serve_refused h
    exact ⟨hr, img, rest, hs, hl⟩

/-- Settles O28: the operations keep `SHIFT_SRC`, and all instructions but the shifts commute with a change of it. -/
theorem shiftSrcIsAFixedParameter : Obligations.ShiftSrcIsAFixedParameter := by
  refine ⟨call_shiftSrc, fun _ _ => step_shiftSrc, fun i s c hi => ⟨fun t h => ?_, fun f h => ?_⟩⟩
  · rw [exec_withShiftSrc hi, h, mapNext_next]
  · rw [exec_withShiftSrc hi, h, mapNext_fault]

/-- Settles O7: each clause is the call at the head of the list, served. -/
theorem stepPerformsTheNextHostCall : Obligations.StepPerformsTheNextHostCall := by
  intro s rest
  refine ⟨step_of_host_nil, fun _ => step_of_host_cons, step_of_host_cons, fun _ _ => step_of_host_cons,
    step_of_host_cons, step_of_host_cons, fun img h hl => ?_⟩
  rw [step_of_host_cons h, serve_load_of_launch hl]

end Sys2Proof.Machine
end

section
/-! PROOFS. The statements of 10_state.md: the reset state (R26, R160 to R162), the canonical form of the memory (R15), the
stack between a call and its return (R14, R79), what each instruction may write (R21), and the invariant of the reachable
states (R23). -/

namespace Sys2Proof.Machine

/-! ## What canonical memories list (R15) -/

/-- An address that is not listed reads as its reset contents. -/
theorem Memory.read_of_not_listed {m : Memory} {a : Nat} (h : ∀ c ∈ m, c.1 ≠ a) : m.read a = resetByte a := by
  induction m with
  | nil => rfl
  | cons c rest ih =>
    obtain ⟨hc, hrest⟩ := List.forall_mem_cons.1 h
    rw [Memory.read, if_neg hc.symm, ih hrest]

/-- A listed address reads as its cell, the addresses being strictly rising. -/
theorem Memory.read_of_mem {m : Memory} (hm : m.Pairwise (fun c d => c.1 < d.1)) {c : Host.Cell} (hc : c ∈ m) :
    m.read c.1 = c.2 := by
  induction m with
  | nil => cases hc
  | cons d rest ih =>
    obtain ⟨hd, hrest⟩ := List.pairwise_cons.1 hm
    rcases List.mem_cons.1 hc with rfl | hc
    · exact if_pos rfl
    · rw [Memory.read, if_neg (hd c hc).ne', ih hrest hc]

/-- A canonical memory lists no cell twice. -/
theorem Memory.nodup {m : Memory} (hm : m.wf) : m.Nodup :=
  hm.1.imp fun hlt heq => hlt.ne (congrArg Prod.fst heq)

/-- A canonical memory lists exactly the cells that read otherwise than at reset. -/
theorem Memory.mem_iff_read {m : Memory} (hm : m.wf) (c : Host.Cell) :
    c ∈ m ↔ m.read c.1 = c.2 ∧ c.2 ≠ resetByte c.1 := by
  constructor
  · exact fun hc => ⟨Memory.read_of_mem hm.1 hc, (hm.2 c hc).2⟩
  · rintro ⟨hread, hne⟩
    by_contra hc
    refine hne (hread ▸ Memory.read_of_not_listed fun d hd hdc => hc ?_)
    have hdread : m.read c.1 = d.2 := hdc ▸ Memory.read_of_mem hm.1 hd
    exact (Prod.ext hdc (hdread.symm.trans hread) : d = c) ▸ hd

/-! ## The reset state (R26, R160) -/

/-- The reset contents from FONT_BASE on are the font (R16, R17). -/
theorem resetByte_font (a : Nat) : resetByte (fontBase + a) = fontData.getD a 0 := by
  rw [resetByte, if_neg (by omega), Nat.add_sub_cancel_left]

/-- The reset contents outside the font are zero. -/
theorem resetByte_outside_font {a : Nat} (h : a < fontBase ∨ fontBase + 80 ≤ a) : resetByte a = 0 := by
  rcases h with h | h
  · exact if_pos h
  · obtain ⟨k, rfl⟩ := Nat.exists_eq_add_of_le h
    rw [Nat.add_assoc, resetByte_font]
    exact List.getD_eq_default _ _ (Nat.le_add_right 80 k)

@[simp] theorem readV_hostReset (r : Nibble) (s : State) : readV r (hostReset s) = 0 := by
  simp [readV, hostReset, State.reset]

@[simp] theorem readByte_hostReset (a : Nat) (s : State) : readByte a (hostReset s) = resetByte a := rfl

@[simp] theorem keyPressed_hostReset (k : Nibble) (s : State) : keyPressed k (hostReset s) = false := by
  simp [keyPressed, hostReset, State.reset]

@[simp] theorem cell_hostReset (x y : Nat) (s : State) : cell x y (hostReset s).disp = false :=
  cell_clearDisplay x y

/-- Every stack entry is zero after reset, dead ones included. -/
theorem hostReset_stack (k : Nat) (hk : k < 16) (s : State) : (hostReset s).stack[k]? = some 0 := by
  simp [hostReset, State.reset, hk]

/-- Reset keeps the fields of the model's own and no other (log 3, 7). -/
theorem hostReset_frame (s : State) :
    KeepsAllBut [.mem, .v, .i, .pc, .sp, .stack, .dt, .st, .disp, .keys, .wait, .keyLatch] s (hostReset s) := by
  rw [keepsAllBut_iff]
  simp [SamePart, hostReset]

/-! ## CALL and RET -/

/-- CALL answers a next state only with an entry left, and that state is the jump after the push (R73). -/
theorem execCall_next {nnn : Addr12} {s t : State} (h : execCall nnn s = .next t) :
    s.sp.toNat < 16 ∧ t = jump (addrImm nnn) (push s.pc s) := by
  unfold execCall raise at h
  split at h
  · cases h
  · split at h
    · cases h; exact ⟨‹_›, rfl⟩
    · cases h

/-- RET with a top entry pops it into pc (R71). -/
theorem execRet_of_topEntry {s : State} {w : Word} (hsp : s.sp ≠ 0) (hw : topEntry s = some w) :
    execRet s = .next (jump w (dropTop s)) := by
  rw [execRet, if_neg hsp, hw]

/-- RET answers a next state only with a top entry, and that state is the pop of it (R71). -/
theorem execRet_next {s t : State} (h : execRet s = .next t) :
    s.sp ≠ 0 ∧ ∃ w, topEntry s = some w ∧ t = jump w (dropTop s) := by
  unfold execRet raise at h
  split at h
  · cases h
  · split at h
    · cases h; exact ⟨‹_›, _, ‹_›, rfl⟩
    · cases h

/-- The entry a push leaves on top is the word pushed, where there was room (R73). -/
theorem topEntry_push {s : State} (h : s.sp.toNat < 16) (w : Word) : topEntry (push w s) = some w := by
  simp [topEntry, h]

/-- Where SP is within the stack, the top entry is a live one: it depends on the live entries alone (R14). -/
theorem topEntry_congr {s u : State} (hne : s.sp ≠ 0) (hsp : u.sp = s.sp)
    (hlive : ∀ k, k < s.sp.toNat → u.stack[k]? = s.stack[k]?) : topEntry u = topEntry s := by
  rw [topEntry, hsp]
  exact hlive _ (by bv_omega)

/-! ## The frame of each shared operation -/

section
variable (s : State)

theorem writeV_frame (x : Nibble) (b : Byte) : KeepsAllBut [.v] s (writeV x b s) := by
  rw [keepsAllBut_iff]; simp [SamePart]

theorem writeI_frame (w : Word) : KeepsAllBut [.i] s (writeI w s) := by
  rw [keepsAllBut_iff]; simp [SamePart]

theorem jump_frame (w : Word) : KeepsAllBut [.pc] s (jump w s) := by
  rw [keepsAllBut_iff]; simp [SamePart]

theorem skipIf_frame (c : Bool) : KeepsAllBut [.pc] s (skipIf c s) := by
  rw [skipIf_eq]; exact jump_frame s _

theorem writeDisp_frame (d : Display) : KeepsAllBut [.disp] s (writeDisp d s) := by
  rw [keepsAllBut_iff]; simp [SamePart]

theorem writeDt_frame (b : Byte) : KeepsAllBut [.dt] s (writeDt b s) := by
  rw [keepsAllBut_iff]; simp [SamePart]

theorem writeSt_frame (b : Byte) : KeepsAllBut [.st] s (writeSt b s) := by
  rw [keepsAllBut_iff]; simp [SamePart]

/-- A call writes pc, SP and the stack (R73). -/
theorem jump_push_frame (w r : Word) : KeepsAllBut [.pc, .sp, .stack] s (jump w (push r s)) := by
  rw [keepsAllBut_iff]; simp [SamePart]

/-- A return writes pc and SP; the stack entry stays (R71). -/
theorem jump_dropTop_frame (w : Word) : KeepsAllBut [.pc, .sp] s (jump w (dropTop s)) := by
  rw [keepsAllBut_iff]; simp [SamePart]

/-- A random byte writes a register and the count of free draws (R95). -/
theorem useDraw_writeV_frame (x : Nibble) (b : Byte) : KeepsAllBut [.v, .draws] s (useDraw (writeV x b s)) := by
  rw [keepsAllBut_iff]; simp [SamePart]

/-- A draw writes the display and the flag (R111). -/
theorem writeFlag_writeDisp_frame (c : Bool) (d : Display) :
    KeepsAllBut [.v, .disp] s (writeFlag c (writeDisp d s)) := by
  rw [keepsAllBut_iff]; simp [SamePart, writeFlag]

/-- Entering the wait writes the sub-state, the latch and pc (R122). -/
theorem enterWait_frame (w : Word) (x : Nibble) :
    KeepsAllBut [.wait, .keyLatch, .pc] s (jump w (writeLatch none (writeWait (.awaitingKey x) s))) := by
  rw [keepsAllBut_iff]; simp [SamePart]

end

/-- The register written is all of the register file that changes. -/
theorem writeV_regs (x : Nibble) (b : Byte) (s : State) : KeepsRegsBut [x] s (writeV x b s) := by
  simp +contextual [KeepsRegsBut]

/-- A frame without the register file keeps every register. -/
theorem KeepsAllBut.regs {ch : List Part} {s t : State} (h : KeepsAllBut ch s t) (hv : .v ∉ ch) (rs : List Nibble) :
    KeepsRegsBut rs s t :=
  fun r _ => h .v hv r

/-- Loading the first registers keeps the others (R105). -/
theorem writeVs_regs (x : Nibble) {bs : List Byte} (hbs : bs.length = x.toNat + 1) (s : State) :
    KeepsRegsBut ((List.range (x.toNat + 1)).map (BitVec.ofNat 4)) s (writeVs 0 bs s) := by
  intro r hr
  rw [readV_writeVs r 0 bs s (by omega), if_neg]
  rintro ⟨-, hlt⟩
  exact hr (List.mem_map.2 ⟨r.toNat, List.mem_range.2 (by omega), by simp⟩)

/-! ## What each instruction may write (R21) -/

/-- An instruction that completes keeps every part its rule does not name. -/
theorem exec_keepsAllBut {i : Instr} {s t : State} (h : exec i s = .next t) : KeepsAllBut (mayWrite i) s t := by
  cases i with
  | cls => cases h; exact writeDisp_frame s _
  | ret => obtain ⟨-, w, -, rfl⟩ := execRet_next h; exact jump_dropTop_frame s w
  | call nnn => obtain ⟨-, rfl⟩ := execCall_next h; exact jump_push_frame s _ _
  | jp | jpV0 => cases h; exact jump_frame s _
  | seImm | sneImm | seReg | sneReg | skp | sknp => cases h; exact skipIf_frame s _
  | ldImm | addImm | ldReg | orReg | andReg | xorReg | ldVxDt => cases h; exact writeV_frame s _ _
  | addReg | subReg | shr | subnReg | shl => cases h; exact (writeResultFlag_frame s _ _ _).2
  | rnd => cases h; exact useDraw_writeV_frame s _ _
  | ldI | addI | ldF => cases h; exact writeI_frame s _
  | drw => obtain ⟨rfl, -⟩ := withRange_next h; exact writeFlag_writeDisp_frame s _ _
  | ldVxK x => cases h; exact enterWait_frame s _ x
  | ldDtVx => cases h; exact writeDt_frame s _
  | ldStVx => cases h; exact writeSt_frame s _
  | ldB | ldMemVx => obtain ⟨rfl, -⟩ := withRange_next h; exact writeBytes_frame s _ _
  | ldVxMem => obtain ⟨rfl, -⟩ := withRange_next h; exact writeVs_frame s _ _

/-- An instruction that completes keeps every register its rule does not name. -/
theorem exec_keepsRegsBut {i : Instr} {s t : State} (h : exec i s = .next t) : KeepsRegsBut (mayWriteRegs i) s t := by
  cases i with
  | ldImm | addImm | ldReg | orReg | andReg | xorReg | ldVxDt => cases h; exact writeV_regs _ _ s
  | addReg | subReg | shr | subnReg | shl => cases h; exact (writeResultFlag_frame s _ _ _).1
  | rnd => cases h; intro r hr; rw [readV_useDraw]; exact writeV_regs _ _ s r hr
  | drw => obtain ⟨rfl, -⟩ := withRange_next h; exact writeV_regs vf _ (writeDisp _ s)
  | ldVxMem x => obtain ⟨rfl, -⟩ := withRange_next h; exact writeVs_regs x (readBytes_length _ _ _) s
  | _ => exact (exec_keepsAllBut h).regs (by simp [mayWrite]) _

/-! ## What each instruction leaves of the invariant -/

/-- An instruction leaves the memory as it is, or stores bytes inside the address space (R107). -/
theorem exec_mem_cases {i : Instr} {s t : State} (h : exec i s = .next t) :
    t.mem = s.mem ∨ ∃ a bs, a + bs.length ≤ Config.memSize ∧ t.mem = (writeBytes a bs s).mem := by
  cases i with
  | ret => obtain ⟨-, w, -, rfl⟩ := execRet_next h; exact .inl rfl
  | call nnn => obtain ⟨-, rfl⟩ := execCall_next h; exact .inl rfl
  | seImm | sneImm | seReg | sneReg | skp | sknp => cases h; rw [skipIf_eq]; exact .inl rfl
  | rnd => cases h; exact .inl (useDraw_mem _)
  | drw => obtain ⟨rfl, -⟩ := withRange_next h; exact .inl rfl
  | ldVxMem => obtain ⟨rfl, -⟩ := withRange_next h; rw [writeVs_eq]; exact .inl rfl
  | ldB x =>
    obtain ⟨rfl, hr⟩ := withRange_next h
    exact .inr ⟨_, _, by rw [digits_length]; omega, rfl⟩
  | ldMemVx x =>
    obtain ⟨rfl, hr⟩ := withRange_next h
    exact .inr ⟨_, _, by rw [readVs_length]; omega, rfl⟩
  | _ => cases h; exact .inl rfl

/-- An instruction keeps the memory canonical. -/
theorem exec_mem_wf {i : Instr} {s t : State} (h : exec i s = .next t) (hm : s.mem.wf) : t.mem.wf := by
  rcases exec_mem_cases h with e | ⟨a, bs, hr, e⟩ <;> rw [e]
  · exact hm
  · exact writeBytes_wf hm (.inr hr)

/-- A push of a return address keeps the live entries return addresses (R13, R73). -/
theorem liveEntries_push {s : State} {w : Word} (hl : LiveEntriesAreReturns s) (hw : 2 ≤ w.toNat ∧ w.toNat ≤ 4096)
    (hsp : s.sp.toNat < 16) : LiveEntriesAreReturns (push w s) := by
  intro k v hk hv
  have hsp1 : (s.sp + 1).toNat = s.sp.toNat + 1 := by bv_omega
  rw [push_sp, hsp1] at hk
  rw [push_stack, Vector.getElem?_setIfInBounds] at hv
  by_cases hks : s.sp.toNat = k
  · rw [if_pos hks, if_pos hsp] at hv
    cases hv
    exact hw
  · rw [if_neg hks] at hv
    exact hl k v (by omega) hv

/-- A pop keeps them: fewer entries are live (R14). -/
theorem liveEntries_dropTop {s : State} (hl : LiveEntriesAreReturns s) (hsp : s.sp ≠ 0) :
    LiveEntriesAreReturns (dropTop s) := by
  intro k v hk hv
  exact hl k v (by rw [dropTop_sp] at hk; bv_omega) hv

/-- What RET pops is a return address (R71). -/
theorem topEntry_is_return {s : State} {w : Word} (hl : LiveEntriesAreReturns s) (hsp : s.sp ≠ 0)
    (hw : topEntry s = some w) : 2 ≤ w.toNat ∧ w.toNat ≤ 4096 :=
  hl _ w (by bv_omega) hw

/-- The live entries are said of SP and the stack alone. -/
theorem liveEntries_congr {s t : State} (hsp : t.sp = s.sp) (hst : t.stack = s.stack)
    (hl : LiveEntriesAreReturns s) : LiveEntriesAreReturns t := by
  rw [LiveEntriesAreReturns, hsp, hst]; exact hl

/-- An instruction keeps the stack in order: SP at most 16, every live entry a return address (R14). -/
theorem exec_stack {i : Instr} {s t : State} (h : exec i s = .next t) (hsp : s.sp.toNat ≤ 16)
    (hl : LiveEntriesAreReturns s) (hpc : 2 ≤ s.pc.toNat ∧ s.pc.toNat ≤ 4096) :
    t.sp.toNat ≤ 16 ∧ LiveEntriesAreReturns t := by
  cases i with
  | call nnn =>
    obtain ⟨hroom, rfl⟩ := execCall_next h
    exact ⟨by rw [jump_sp, push_sp]; bv_omega, liveEntries_congr rfl rfl (liveEntries_push hl hpc hroom)⟩
  | ret =>
    obtain ⟨hne, w, -, rfl⟩ := execRet_next h
    exact ⟨by rw [jump_sp, dropTop_sp]; bv_omega, liveEntries_congr rfl rfl (liveEntries_dropTop hl hne)⟩
  | _ =>
    have hkeep := exec_keepsAllBut h
    have hsp' : t.sp = s.sp := hkeep .sp (by simp [mayWrite])
    have hst' : t.stack = s.stack := hkeep .stack (by simp [mayWrite])
    exact ⟨hsp' ▸ hsp, liveEntries_congr hsp' hst' hl⟩

/-- A skip moves pc by two at most (R70). -/
theorem skipIf_pc_le (c : Bool) {s : State} (hpc : s.pc.toNat ≤ 4096) : (skipIf c s).pc.toNat ≤ 0x10FE := by
  rw [skipIf_eq, jump_pc]
  split <;> bv_omega

/-- An address of 12 bits and a byte sum to 0x10FE at most (R13, R78). -/
theorem addrImm_add_wideV_le (nnn : Addr12) (x : Nibble) (s : State) :
    (addrImm nnn + wideV x s).toNat ≤ 0x10FE := by
  unfold addrImm wideV; bv_omega

/-- An instruction begun at an advanced pc leaves pc at most 0x10FE (R13). -/
theorem exec_pc_le {i : Instr} {s t : State} (h : exec i s = .next t) (hl : LiveEntriesAreReturns s)
    (hpc : 2 ≤ s.pc.toNat ∧ s.pc.toNat ≤ 4096) : t.pc.toNat ≤ 0x10FE := by
  cases i with
  | ret =>
    obtain ⟨hne, w, hw, rfl⟩ := execRet_next h
    have := topEntry_is_return hl hne hw
    rw [jump_pc]; omega
  | call nnn => obtain ⟨-, rfl⟩ := execCall_next h; rw [jump_pc, addrImm]; bv_omega
  | jp nnn => cases h; rw [jump_pc, addrImm]; bv_omega
  | jpV0 nnn => cases h; exact addrImm_add_wideV_le nnn 0 s
  | seImm | sneImm | seReg | sneReg | skp | sknp => cases h; exact skipIf_pc_le _ hpc.2
  | ldVxK x => cases h; rw [jump_pc]; bv_omega
  | _ =>
    have hpc' : t.pc = s.pc := exec_keepsAllBut h .pc (by simp [mayWrite])
    rw [hpc']; omega

/-- Only `LD Vx, K` enters a wait; every other instruction keeps the sub-state and the latch (R24, R25). -/
theorem exec_wait_cases {i : Instr} {s t : State} (h : exec i s = .next t) :
    (t.wait = s.wait ∧ t.keyLatch = s.keyLatch) ∨
    ∃ x, i = .ldVxK x ∧ t = jump (s.pc - 2) (writeLatch none (writeWait (.awaitingKey x) s)) := by
  cases i with
  | ldVxK x => cases h; exact .inr ⟨x, rfl, rfl⟩
  | _ =>
    have hkeep := exec_keepsAllBut h
    exact .inl ⟨hkeep .wait (by simp [mayWrite]), hkeep .keyLatch (by simp [mayWrite])⟩

/-! ## The word of the wait -/

/-- Family F gives `LD Vx, K` for the function code 0x0A alone (R52). -/
theorem fields_of_decodeFamilyF_ldVxK {op : Word} {x : Nibble} (h : decodeFamilyF op = .ok (.ldVxK x)) :
    fieldX op = x ∧ fieldKK op = 0x0A := by
  unfold decodeFamilyF at h
  split at h
  case h_2 hkk => cases h; exact ⟨rfl, BitVec.eq_of_toNat_eq hkk⟩
  all_goals cases h

/-- No family but F, the last arm of the decoder, gives `LD Vx, K` (R52). -/
theorem family_of_decode_ldVxK {op : Word} {x : Nibble} (h : decode op = .ok (.ldVxK x)) :
    fieldN3 op = 0xF ∧ decodeFamilyF op = .ok (.ldVxK x) := by
  unfold decode decodeFamily0 decodeFamily8 decodeFamilyE at h
  repeat' split at h
  case h_16 =>
    simp only [imp_false] at *
    exact ⟨by bv_omega, h⟩
  all_goals cases h

/-- The word that decodes to `LD Vx, K` is 0xFx0A (R50). -/
theorem decode_eq_ldVxK {op : Word} {x : Nibble} (h : decode op = .ok (.ldVxK x)) : op = wordXKK 0xF x 0x0A := by
  obtain ⟨hfam, hF⟩ := family_of_decode_ldVxK h
  obtain ⟨hx, hkk⟩ := fields_of_decodeFamilyF_ldVxK hF
  rw [← wordXKK_fields op, hfam, hx, hkk]

/-- The bytes of a fetched word of format XKK: the family and `x` in the first, `kk` in the second (R34, R48). -/
theorem bytes_of_wordXKK {hi lo : Byte} {x : Nibble} {kk : Byte} (h : wordOfBytes hi lo = wordXKK 0xF x kk) :
    hi = 0xF0 + x.setWidth 8 ∧ lo = kk := by
  have hn := congrArg BitVec.toNat h
  rw [wordOfBytes_toNat, wordXKK_toNat] at hn
  constructor <;> bv_omega

/-! ## The invariant -/

/-- The invariant of a running machine: nothing is said of the instruction it stands on (R23). -/
theorem machineInv_of_running {s : State} (hm : s.mem.wf) (hsp : s.sp.toNat ≤ 16) (hpc : s.pc.toNat ≤ 0x10FE)
    (hl : LiveEntriesAreReturns s) (hw : s.wait = .running) (hk : s.keyLatch = none) : MachineInv s :=
  ⟨hm, hsp, hpc, hl, fun _ => hk, fun _ hx => Wait.noConfusion (hw.symm.trans hx)⟩

/-- The reset state meets the invariant, from whatever state it was reached (R26). -/
theorem machineInv_hostReset (s : State) : MachineInv (hostReset s) :=
  machineInv_of_running Memory.wf_nil (Nat.zero_le 16) (show 0x200 ≤ 0x10FE by decide)
    (fun k _ hk => absurd hk (Nat.not_lt_zero k)) rfl rfl

/-- A running machine that met the invariant meets it with pc advanced from a place that can be fetched from (R131). -/
theorem machineInv_advance {s : State} (h : MachineInv s) (hw : s.wait = .running)
    (hpc : s.pc.toNat + 1 < Config.memSize) : MachineInv (advance s) := by
  obtain ⟨hm, hsp, -, hl, hk, -⟩ := h
  exact machineInv_of_running hm hsp (by rw [advance_pc]; rw [memSize_eq] at hpc; bv_omega) hl hw (hk hw)

/-- The instruction at pc, executed by a running machine, keeps the invariant. -/
theorem machineInv_exec {s t : State} {op : Word} {i : Instr} (h : MachineInv s) (hw : s.wait = .running)
    (hf : fetch s = some op) (hd : decode op = .ok i) (he : exec i (advance s) = .next t) : MachineInv t := by
  obtain ⟨hm, hsp, -, hl, hk, -⟩ := h
  obtain ⟨hlt, rfl⟩ := fetch_some hf
  rw [memSize_eq] at hlt
  have hpc : 2 ≤ (advance s).pc.toNat ∧ (advance s).pc.toNat ≤ 4096 := by rw [advance_pc]; bv_omega
  obtain ⟨hsp', hl'⟩ := exec_stack he hsp hl hpc
  have hm' := exec_mem_wf he hm
  have hpc' := exec_pc_le he hl hpc
  rcases exec_wait_cases he with ⟨hwt, hkt⟩ | ⟨x, rfl, rfl⟩
  · exact machineInv_of_running hm' hsp' hpc' hl' (hwt.trans hw) (hkt.trans (hk hw))
  · refine ⟨hm', hsp', hpc', hl', fun _ => rfl, fun y hy => ?_⟩
    cases hy
    have hback : (advance s).pc - 2 = s.pc := by rw [advance_pc]; bv_omega
    obtain ⟨hhi, hlo⟩ := bytes_of_wordXKK (decode_eq_ldVxK hd)
    rw [jump_pc, hback]
    exact ⟨by omega, hhi, hlo⟩

/-- A tick of the wait keeps the invariant: a latched key ends it, without one nothing changes (R123). -/
theorem machineInv_waitTick {s : State} {x : Nibble} (h : MachineInv s) (hw : s.wait = .awaitingKey x) :
    MachineInv (waitTick x s) := by
  rcases waitTick_cases x s with ⟨-, e⟩ | ⟨k, -, e⟩ <;> rw [e]
  · exact h
  · obtain ⟨hm, hsp, -, hl, -, hstand⟩ := h
    have hpc := (hstand x hw).1
    exact machineInv_of_running hm hsp (by show (s.pc + 2).toNat ≤ _; bv_omega) hl rfl rfl

/-- A tick keeps the invariant. -/
theorem machineInv_tick {s t : State} (h : MachineInv s) (ht : tick s = .next t) : MachineInv t := by
  rcases tick_cases s with ⟨x, hw, e⟩ | ⟨-, -, e⟩ | ⟨op, r, -, -, -, e⟩ | ⟨op, i, hw, hf, hd, e⟩ <;> rw [e] at ht
  · cases ht; exact machineInv_waitTick h hw
  · cases ht
  · cases ht
  · exact machineInv_exec h hw hf hd ht

/-- A key press keeps the invariant: only inside a wait is anything latched (R25, R148). -/
theorem machineInv_keypress {s : State} (h : MachineInv s) (k : Nibble) (p : Bool) : MachineInv (keypress k p s) := by
  rcases keypress_eq k p s with e | ⟨⟨x, hx⟩, e⟩ <;> rw [e]
  · exact h
  · obtain ⟨hm, hsp, hpc, hl, -, hstand⟩ := h
    exact ⟨hm, hsp, hpc, hl, fun hw => Wait.noConfusion (hw.symm.trans hx), hstand⟩

/-- A load into a running machine keeps the invariant (R163). -/
theorem machineInv_load {s : State} (h : MachineInv s) (hw : s.wait = .running) {img : List Byte}
    (hlen : img.length ≤ Config.imageMax) : MachineInv (writeBytes Config.progBase img s) := by
  obtain ⟨hm, hsp, hpc, hl, hk, -⟩ := h
  have hm' := writeBytes_wf (a := Config.progBase) (bs := img) hm (.inr (by simp at hlen ⊢; omega))
  rw [writeBytes_eq]
  exact machineInv_of_running hm' hsp hpc hl hw (hk hw)

/-- A host call that answers a next state keeps the invariant. -/
theorem machineInv_serve {op : HostOp} {s t : State} (h : MachineInv s) (ht : serve op s = .next t) : MachineInv t := by
  rcases serve_next ht with ⟨-, rfl⟩ | ⟨img, -, hs, hlen, rfl⟩ | ⟨r, -, ht⟩ | ⟨-, rfl⟩ | ⟨k, p, -, rfl⟩ | ⟨-, rfl⟩
  · exact machineInv_hostReset s
  · exact machineInv_load h (congrArg State.wait hs) hlen
  · exact machineInv_tick (s := withDraw (some r) s) h ht
  · exact h
  · exact machineInv_keypress h k p
  · exact h

/-- A load fails only with `ImageTooLarge` (R164). -/
theorem load_fault {img : List Byte} {s : State} {f : Fault} (h : load img s = .fault f) :
    f = .imageTooLarge img.length := by
  unfold load raise at h
  split at h <;> cases h
  rfl

/-- An error leaves the state as it was, or it is an error of the Execute step, which comes after a fetch (R131). -/
theorem serve_fault {op : HostOp} {s : State} {f : Fault} (h : serve op s = .fault f) :
    afterError f s = s ∨ (s.wait = .running ∧ s.pc.toNat + 1 < Config.memSize) := by
  cases op with
  | load img =>
    by_cases hl : s = hostReset s
    · rw [serve_load_of_launch hl] at h
      rw [load_fault h]; exact .inl rfl
    · cases (serve_load_of_late hl img).symm.trans h
  | tick r =>
    rcases tick_cases (withDraw (some r) s) with
      ⟨x, -, e⟩ | ⟨-, -, e⟩ | ⟨w, q, hw, hf, -, -⟩ | ⟨w, i, hw, hf, -, -⟩
    · cases e.symm.trans h
    · cases e.symm.trans h; exact .inl rfl
    · exact .inr ⟨hw, (fetch_some hf).1⟩
    · exact .inr ⟨hw, (fetch_some hf).1⟩
  | reset => cases h
  | tickTimers => cases h
  | keypress k p => cases h
  | readDisplay => cases h

/-- An error keeps the invariant. -/
theorem machineInv_afterError {op : HostOp} {s : State} {f : Fault} (h : MachineInv s) (hf : serve op s = .fault f) :
    MachineInv (afterError f s) := by
  rcases afterError_eq f s with e | e
  · rw [e]; exact h
  · rcases serve_fault hf with e' | ⟨hw, hpc⟩
    · rw [e']; exact h
    · rw [e]; exact machineInv_advance h hw hpc

/-- A host operation keeps the invariant, whatever it returns. -/
theorem machineInv_call {s : State} (h : MachineInv s) (op : HostOp) : MachineInv (call op s).1 := by
  unfold call
  cases hs : serve op s with
  | next t => exact machineInv_serve h hs
  | fault f => exact machineInv_afterError h hs
  | refused r => exact h

/-! ## The statements -/

/-- Settles O59: a step is a tick or a host call, on the state with another draw or list, of which the invariant says
nothing. -/
theorem stepKeepsTheInvariant : Obligations.StepKeepsTheInvariant := by
  intro s t h ht
  rcases step_cases s with ⟨-, e⟩ | ⟨op, rest, -, e⟩ <;> rw [e] at ht
  · exact machineInv_tick (s := withDraw none s) h ht
  · exact machineInv_serve (s := withHost rest s) h ht

/-- Settles O60, by induction on the calls. -/
theorem everyInterleavingKeepsTheInvariant : Obligations.EveryInterleavingKeepsTheInvariant := by
  intro ops
  induction ops with
  | nil => exact fun _ h => h
  | cons op rest ih => exact fun s h => ih _ (machineInv_call h op)

/-- Settles O19: the entry `RET` pops is the one `CALL` pushed, since it is live. -/
theorem returnGoesBackAfterTheCall : Obligations.ReturnGoesBackAfterTheCall := by
  intro nnn s t u h hsp hlive
  obtain ⟨hroom, rfl⟩ := execCall_next h
  have hne : s.sp + 1 ≠ 0 := by bv_omega
  have htop : topEntry u = some s.pc := (topEntry_congr hne hsp hlive).trans (topEntry_push hroom s.pc)
  refine ⟨_, execRet_of_topEntry (hsp ▸ hne) htop, rfl, ?_⟩
  rw [jump_sp, dropTop_sp, hsp, jump_sp, push_sp]
  bv_omega

/-- Settles O39: both list exactly the cells that read otherwise than at reset, in the same order. -/
theorem canonicalMemoriesAreEqualData : Obligations.CanonicalMemoriesAreEqualData := by
  intro m n hm hn hread
  have hmem (c : Host.Cell) : c ∈ m ↔ c ∈ n := by
    rw [Memory.mem_iff_read hm, Memory.mem_iff_read hn, hread]
  have hperm : m.Perm n := (List.perm_ext_iff_of_nodup (Memory.nodup hm) (Memory.nodup hn)).2 hmem
  exact hperm.eq_of_pairwise (fun c d _ _ hcd hdc => absurd hcd hdc.asymm) hm.1 hn.1

/-- Settles O55, instruction by instruction. -/
theorem instructionsWriteOnlyTheirParts : Obligations.InstructionsWriteOnlyTheirParts :=
  fun _ _ _ h => ⟨exec_keepsAllBut h, exec_keepsRegsBut h⟩

/-- Settles O53: the elements one by one, then the two resets, then what is kept. -/
theorem resetGivesTheResetState : Obligations.ResetGivesTheResetState := by
  intro s
  exact ⟨fun r => readV_hostReset r s, rfl, rfl, rfl, fun k hk => hostReset_stack k hk s, rfl, rfl,
    fun x y => cell_hostReset x y s, fun k => keyPressed_hostReset k s, rfl, rfl,
    fun a _ => (readByte_hostReset _ s).trans (resetByte_font a),
    fun a ha => (readByte_hostReset a s).trans (resetByte_outside_font ha), rfl, rfl, hostReset_frame s⟩

/-- Settles O58: the power-on state is a reset state. -/
theorem resetMeetsTheInvariant : Obligations.ResetMeetsTheInvariant :=
  machineInv_hostReset State.reset

end Sys2Proof.Machine
end

section
/-! PROOFS. The statements of 20_memory.md: a store is seen by the next fetch (R43), and a range past the end of the address
space fails (R33, R45). -/

namespace Sys2Proof.Machine

/-! ## The next fetch after an instruction (R35, R43) -/

/-- Where pc and pc+1 exist, odd pc included, the fetched word is the bytes there, big-endian (R61). -/
theorem fetch_of_pc_le {u : State} (hpc : u.pc.toNat ≤ 4094) :
    fetch u = some (wordOfBytes (readByte u.pc.toNat u) (readByte (u.pc.toNat + 1) u)) :=
  if_pos (by rw [memSize_eq]; omega)

/-- A fetch from a memory that bytes were stored into: each of its two bytes is a stored one or an old one by itself. -/
theorem fetch_of_mem_writeBytes {a : Nat} {bs : List Byte} {s u : State} (hmem : u.mem = (writeBytes a bs s).mem)
    (hpc : u.pc.toNat ≤ 4094) :
    fetch u = some (wordOfBytes (byteAfterStore a bs s u.pc.toNat) (byteAfterStore a bs s (u.pc.toNat + 1))) := by
  rw [fetch_of_pc_le hpc]
  simp only [readByte_congr hmem, readByte_writeBytes_eq_byteAfterStore]

/-- The two stores are the only instructions whose rule lets them write memory (R103, R104). -/
theorem mem_not_mem_mayWrite {i : Instr} (hi : ∀ x, i ≠ .ldMemVx x ∧ i ≠ .ldB x) : Part.mem ∉ mayWrite i := by
  cases i with
  | ldB x => exact absurd rfl (hi x).2
  | ldMemVx x => exact absurd rfl (hi x).1
  | _ => simp [mayWrite]

/-- Settles O38: after either store the fetch reads what was stored, after any other instruction the memory of before. -/
theorem storeIsSeenByTheNextFetch : Obligations.StoreIsSeenByTheNextFetch := by
  intro i s t u h hmem hpc
  refine ⟨?_, ?_, fun hi => ?_⟩
  · rintro x rfl
    obtain ⟨rfl, -⟩ := withRange_next h
    exact fetch_of_mem_writeBytes hmem hpc
  · rintro x rfl
    obtain ⟨rfl, -⟩ := withRange_next h
    exact fetch_of_mem_writeBytes hmem hpc
  · have hkeep (a : Nat) : readByte a u = readByte a s :=
      (readByte_congr hmem a).trans (exec_keepsAllBut h .mem (mem_not_mem_mayWrite hi) a)
    rw [fetch_of_pc_le hpc, hkeep, hkeep]

/-! ## Ranges past the end (R33, R45, R107) -/

/-- A range that is not empty and ends above 4095 fails, with the lowest bad address of it. -/
theorem withRange_of_past_end {a n : Nat} (hn : 0 < n) (hend : 4096 < a + n) (t : State) :
    withRange a n t = .fault (.memoryOutOfRange (max a 4096)) := by
  rcases withRange_cases a n t with ⟨hin, -⟩ | ⟨-, e⟩
  · rw [inMemory_iff, memSize_eq] at hin
    omega
  · exact e

/-- Settles O36: each of the four checks its range first, which here is not empty. -/
theorem rangesPastTheEndFault : Obligations.RangesPastTheEndFault := by
  intro x y n s
  exact ⟨fun h => withRange_of_past_end (Nat.succ_pos 2) (Nat.lt_succ_of_le h) _,
    fun h => withRange_of_past_end (Nat.succ_pos _) (Nat.lt_succ_of_le h) _,
    fun h => withRange_of_past_end (Nat.succ_pos _) (Nat.lt_succ_of_le h) _,
    fun hn h => withRange_of_past_end hn h _⟩

end Sys2Proof.Machine
end

section
/-! PROOFS. The statements of 30_encoding.md: decoder and encoder are inverse (R50, R52), and the decoder accepts the
words of the opcode map alone (R53). -/

namespace Sys2Proof

/-! ## The word of an instruction decodes to it (R50, R52) -/

/-- Settles O1, family by family: the fields of the word are the ones it was laid out from, and they select the
instruction. -/
theorem encodeThenDecodeIsIdentity : Obligations.EncodeThenDecodeIsIdentity := by
  intro i
  cases i with
  | cls | ret => rfl
  | jp | call | ldI | jpV0 | seImm | sneImm | ldImm | addImm | rnd | seReg | sneReg | drw => simp [encode, decode]
  | ldReg | orReg | andReg | xorReg | addReg | subReg | shr | subnReg | shl => simp [encode, decode, decodeFamily8]
  | skp | sknp => simp [encode, decode, decodeFamilyE]
  | ldVxDt | ldVxK | ldDtVx | ldStVx | addI | ldF | ldB | ldMemVx | ldVxMem => simp [encode, decode, decodeFamilyF]

/-- Settles O5: each word is the word of its instruction. -/
theorem sampleWordsDecode : Obligations.SampleWordsDecode :=
  ⟨encodeThenDecodeIsIdentity .cls, encodeThenDecodeIsIdentity .ret, encodeThenDecodeIsIdentity (.jp 0x234),
    encodeThenDecodeIsIdentity (.call 0xABC), encodeThenDecodeIsIdentity (.ldImm 0xA 0xFF),
    encodeThenDecodeIsIdentity (.addReg 0 1), encodeThenDecodeIsIdentity (.drw 0x5 0xA 0x3),
    encodeThenDecodeIsIdentity (.skp 1), encodeThenDecodeIsIdentity (.ldMemVx 3)⟩

/-! ## A word that decodes is the word of its instruction -/

section
variable {op : Word} {i : Instr}

theorem wordNNN_of_fields {a : Nibble} (h3 : fieldN3 op = a) : wordNNN a (fieldNNN op) = op := by
  rw [← h3, wordNNN_fields]

theorem wordXKK_of_fields {a : Nibble} {kk : Byte} (h3 : fieldN3 op = a) (hk : fieldKK op = kk) :
    wordXKK a (fieldX op) kk = op := by
  rw [← h3, ← hk, wordXKK_fields]

theorem wordXYN_of_fields {a n : Nibble} (h3 : fieldN3 op = a) (hn : fieldN op = n) :
    wordXYN a (fieldX op) (fieldY op) n = op := by
  rw [← h3, ← hn, wordXYN_fields]

theorem encode_of_decodeFamily0 (h : decodeFamily0 op = .ok i) : encode i = op := by
  unfold decodeFamily0 at h
  split at h
  case isTrue h0 => cases h; exact h0.symm
  split at h
  case isTrue hE => cases h; exact hE.symm
  cases h

theorem encode_of_decodeFamily8 (h3 : fieldN3 op = 0x8) (h : decodeFamily8 op = .ok i) : encode i = op := by
  unfold decodeFamily8 at h
  split at h
  case h_10 => cases h
  all_goals
    rename_i hn
    cases h
    exact wordXYN_of_fields h3 (BitVec.eq_of_toNat_eq hn)

theorem encode_of_decodeFamilyE (h3 : fieldN3 op = 0xE) (h : decodeFamilyE op = .ok i) : encode i = op := by
  unfold decodeFamilyE at h
  split at h
  case isTrue hk => cases h; exact wordXKK_of_fields h3 hk
  split at h
  case isTrue hk => cases h; exact wordXKK_of_fields h3 hk
  cases h

theorem encode_of_decodeFamilyF (h3 : fieldN3 op = 0xF) (h : decodeFamilyF op = .ok i) : encode i = op := by
  unfold decodeFamilyF at h
  split at h
  case h_10 => cases h
  all_goals
    rename_i hk
    cases h
    exact wordXKK_of_fields h3 (BitVec.eq_of_toNat_eq hk)

end

/-- Settles O2, family by family: the fields that select the instruction are the ones its word fixes. -/
theorem decodedWordIsTheEncoding : Obligations.DecodedWordIsTheEncoding := by
  intro op i h
  unfold decode at h
  split at h
  case h_1 => exact encode_of_decodeFamily0 h
  case h_2 h3 | h_3 h3 | h_11 h3 | h_12 h3 => cases h; exact wordNNN_of_fields (BitVec.eq_of_toNat_eq h3)
  case h_4 h3 | h_5 h3 | h_7 h3 | h_8 h3 | h_13 h3 => cases h; exact wordXKK_of_fields (BitVec.eq_of_toNat_eq h3) rfl
  case h_6 h3 | h_10 h3 =>
    split at h
    case isTrue hn => cases h; exact wordXYN_of_fields (BitVec.eq_of_toNat_eq h3) hn
    case isFalse => cases h
  case h_9 h3 => exact encode_of_decodeFamily8 (BitVec.eq_of_toNat_eq h3) h
  case h_14 h3 => cases h; exact wordXYN_of_fields (BitVec.eq_of_toNat_eq h3) rfl
  case h_15 h3 => exact encode_of_decodeFamilyE (BitVec.eq_of_toNat_eq h3) h
  case h_16 =>
    have h3 : fieldN3 op = 0xF := by simp only [imp_false] at *; bv_omega
    exact encode_of_decodeFamilyF h3 h

/-! ## The illegal words (R53) -/

section
variable (op : Word)

theorem decodeFamily0_eq_error_iff :
    decodeFamily0 op = .error (.illegalOpcode op) ↔ op ≠ 0x00E0 ∧ op ≠ 0x00EE := by
  unfold decodeFamily0
  split
  case isTrue h => simp [h]
  split
  case isTrue h => simp [h]
  case isFalse h h' => exact ⟨fun _ => ⟨h, h'⟩, fun _ => rfl⟩

theorem decodeFamily8_eq_error_iff :
    decodeFamily8 op = .error (.illegalOpcode op) ↔
      fieldN op = 0xF ∨ 8 ≤ (fieldN op).toNat ∧ (fieldN op).toNat ≤ 0xD := by
  rcases nibble_cases (fieldN op) with h | h | h | h | h | h | h | h | h | h | h | h | h | h | h | h <;>
    simp [decodeFamily8, h]

theorem decodeFamilyE_eq_error_iff :
    decodeFamilyE op = .error (.illegalOpcode op) ↔ fieldKK op ∉ ([0x9E, 0xA1] : List Byte) := by
  unfold decodeFamilyE
  split
  case isTrue h => simp [h]
  split
  case isTrue h => simp [h]
  case isFalse h h' => simpa using ⟨h, h'⟩

theorem decodeFamilyF_eq_error_iff :
    decodeFamilyF op = .error (.illegalOpcode op) ↔
      fieldKK op ∉ ([0x07, 0x0A, 0x15, 0x18, 0x1E, 0x29, 0x33, 0x55, 0x65] : List Byte) := by
  unfold decodeFamilyF
  split
  case h_10 => simp_all [← BitVec.toNat_inj]
  all_goals
    rename_i hk
    simp [← BitVec.toNat_inj, hk]

end

/-- Settles O4, family by family: the other families reject no word. -/
theorem illegalWordsByFamily : Obligations.IllegalWordsByFamily := by
  intro op
  rcases nibble_cases (fieldN3 op) with h | h | h | h | h | h | h | h | h | h | h | h | h | h | h | h <;>
    simp [decode, h, decodeFamily0_eq_error_iff, decodeFamily8_eq_error_iff, decodeFamilyE_eq_error_iff,
      decodeFamilyF_eq_error_iff]

/-! ## The opcode map (R50, R53) -/

open Laws.OpcodeRow in
/-- Every instruction's row stands in the opcode map and its word matches it (R50). -/
theorem opcodeRow_statement (i : Instr) : Statement i :=
  i.casesOn (motive := Statement) cls ret jp call seImm sneImm seReg ldImm addImm ldReg orReg andReg xorReg addReg
    subReg shr subnReg shl sneReg ldI jpV0 rnd drw skp sknp ldVxDt ldVxK ldDtVx ldStVx addI ldF ldB ldMemVx ldVxMem

theorem legalWord_encode (i : Instr) : legalWord (encode i) = true :=
  List.any_eq_true.2 ⟨i.row, opcodeRow_statement i⟩

/-- A word that matches a row has the row's own bits in every field that the row's mask fixes (R50). -/
theorem extractLsb'_of_matches {r : Row} {op : Word} (h : r.matches op = true) {start len : Nat}
    (hm : r.mask.extractLsb' start len = BitVec.allOnes len) :
    op.extractLsb' start len = r.bits.extractLsb' start len := by
  rw [Row.matches, beq_iff_eq] at h
  rw [← h, BitVec.extractLsb'_and, hm, BitVec.and_allOnes]

/-- Every row fixes the family, and in the families with illegal words also the field that tells them (R50). -/
theorem fixed_fields_of_mem_opcodeMap : ∀ r ∈ opcodeMap,
    fieldN3 r.mask = BitVec.allOnes 4 ∧
    (fieldN3 r.bits = 0x0 → r.mask = BitVec.allOnes 16) ∧
    (fieldN3 r.bits ∈ ([0x5, 0x8, 0x9] : List Nibble) → fieldN r.mask = BitVec.allOnes 4) ∧
    (fieldN3 r.bits ∈ ([0xE, 0xF] : List Nibble) → fieldKK r.mask = BitVec.allOnes 8) := by
  decide

/-- The row's own bits, with 0 in every free field, are a word that decodes (R50). -/
theorem decode_bits_of_mem_opcodeMap : ∀ r ∈ opcodeMap, decode r.bits ≠ .error (.illegalOpcode r.bits) := by
  decide

/-- Where a word that matches a row is illegal, the row's own bits are: the row fixes what tells an illegal word. -/
theorem bits_illegal_of_matches {r : Row} {op : Word} (hr : r ∈ opcodeMap) (h : r.matches op = true)
    (hd : decode op = .error (.illegalOpcode op)) : decode r.bits = .error (.illegalOpcode r.bits) := by
  obtain ⟨hm3, hm0, hmN, hmK⟩ := fixed_fields_of_mem_opcodeMap r hr
  have h3 : fieldN3 op = fieldN3 r.bits := extractLsb'_of_matches h hm3
  rw [illegalWordsByFamily] at hd ⊢
  rw [← h3] at hm0 hmN hmK ⊢
  have hN (hf : fieldN3 op ∈ ([0x5, 0x8, 0x9] : List Nibble)) : fieldN op = fieldN r.bits :=
    extractLsb'_of_matches h (hmN hf)
  have hK (hf : fieldN3 op ∈ ([0xE, 0xF] : List Nibble)) : fieldKK op = fieldKK r.bits :=
    extractLsb'_of_matches h (hmK hf)
  have h0 (hf : fieldN3 op = 0x0) : op = r.bits := by
    rw [Row.matches, beq_iff_eq, hm0 hf, BitVec.and_allOnes] at h
    exact h
  rcases hd with ⟨hf, hd⟩ | ⟨hf, hd⟩ | ⟨hf, hd⟩ | ⟨hf, hd⟩ | ⟨hf, hd⟩ | ⟨hf, hd⟩
  · rw [h0 hf] at hd; exact .inl ⟨hf, hd⟩
  · rw [hN (by simp [hf])] at hd; exact .inr (.inl ⟨hf, hd⟩)
  · rw [hN (by simp [hf])] at hd; exact .inr (.inr (.inl ⟨hf, hd⟩))
  · rw [hN (by simp [hf])] at hd; exact .inr (.inr (.inr (.inl ⟨hf, hd⟩)))
  · rw [hK (by simp [hf])] at hd; exact .inr (.inr (.inr (.inr (.inl ⟨hf, hd⟩))))
  · rw [hK (by simp [hf])] at hd; exact .inr (.inr (.inr (.inr (.inr ⟨hf, hd⟩))))

theorem decode_of_matches {r : Row} {op : Word} (hr : r ∈ opcodeMap) (h : r.matches op = true) :
    ∃ i, decode op = .ok i :=
  (decode_total op).resolve_right fun hd => decode_bits_of_mem_opcodeMap r hr (bits_illegal_of_matches hr h hd)

theorem decode_ok_iff_legalWord (op : Word) : (∃ i, decode op = .ok i) ↔ legalWord op = true := by
  constructor
  · rintro ⟨i, h⟩
    rw [← decodedWordIsTheEncoding op i h]
    exact legalWord_encode i
  · intro h
    obtain ⟨r, hr, hm⟩ := List.any_eq_true.1 h
    exact decode_of_matches hr hm

/-- Two rows that match one word have the same bits where both masks fix them. -/
theorem bits_agree_of_matches {r q : Row} {op : Word} (hr : r.matches op = true) (hq : q.matches op = true) :
    r.bits &&& q.mask = q.bits &&& r.mask := by
  rw [Row.matches, beq_iff_eq] at hr hq
  rw [← hr, ← hq, BitVec.and_assoc, BitVec.and_assoc, BitVec.and_comm r.mask]

/-- Different rows differ in a bit that both masks fix: the rows are pairwise disjoint (R50). -/
theorem opcodeMap_pairwise_disjoint :
    ∀ r ∈ opcodeMap, ∀ q ∈ opcodeMap, r.bits &&& q.mask = q.bits &&& r.mask → r = q := by
  decide

/-- Settles O3: legal words are the words of instructions, and disjoint rows share no word. -/
theorem decoderAcceptsExactlyTheOpcodeMap : Obligations.DecoderAcceptsExactlyTheOpcodeMap :=
  ⟨decode_ok_iff_legalWord, fun _ r q hr hq hmr hmq =>
    opcodeMap_pairwise_disjoint r hr q hq (bits_agree_of_matches hmr hmq)⟩

end Sys2Proof
end

section
/-! PROOFS. The statements of 40_cycle.md: the fetch (R61), the decoded instruction with pc advanced (R62 to R64), errors
(R65), what a tick leaves (R67), and what no instruction but RND reads (R68). -/

namespace Sys2Proof.Machine

/-! ## What a running machine's tick is (R60 to R64) -/

/-- A tick that fetches a word executes it. -/
theorem tick_of_fetch_some {s : State} {op : Word} (hw : s.wait = .running) (hf : fetch s = some op) :
    tick s = executeWord op s := by
  simp only [tick, hw, hf]

/-- A tick that fetches nothing fails (R61). -/
theorem tick_of_fetch_none {s : State} (hw : s.wait = .running) (hf : fetch s = none) :
    tick s = .fault (.programCounterOutOfRange s.pc) := by
  simp only [tick, hw, hf, raise]

/-- A tick that fetches the word of an instruction executes the instruction with pc advanced (R62 to R64). -/
theorem tick_of_decode_ok {s : State} {op : Word} {i : Instr} (hw : s.wait = .running) (hf : fetch s = some op)
    (hd : decode op = .ok i) : tick s = exec i (advance s) := by
  rw [tick_of_fetch_some hw hf, executeWord, hd]

/-- A tick that fetches an illegal word surfaces it (R64). -/
theorem tick_of_decode_error {s : State} {op : Word} {q : Reject} (hw : s.wait = .running) (hf : fetch s = some op)
    (hd : decode op = .error q) : tick s = .fault (.illegalOpcode op) := by
  rw [tick_of_fetch_some hw hf, executeWord, hd, raise]

/-- Where pc+1 does not exist nothing is fetched (R61). -/
theorem fetch_of_le_pc {s : State} (hpc : 4095 ≤ s.pc.toNat) : fetch s = none :=
  if_neg (by rw [memSize_eq]; omega)

/-- Settles O6: the draw and the list of calls change neither the sub-state nor the fetched word. -/
theorem stepRunsTheDecodedInstruction : Obligations.StepRunsTheDecodedInstruction := by
  intro s op i hw hf hd
  refine ⟨fun h => ?_, fun r rest h => ?_⟩
  · rw [step_of_host_nil h]
    exact tick_of_decode_ok (s := withDraw none s) hw hf hd
  · rw [step_of_host_cons h]
    exact tick_of_decode_ok (s := withDraw (some r) (withHost rest s)) hw hf hd

/-- Settles O8: the two ranges of pc are the two answers of the fetch. -/
theorem fetchChecksThenReadsBigEndian : Obligations.FetchChecksThenReadsBigEndian := by
  intro s hw
  refine ⟨fun hpc => ⟨tick_of_fetch_none hw (fetch_of_le_pc hpc), rfl⟩, fun hpc => ?_⟩
  have hf := fetch_of_pc_le hpc
  exact ⟨_, hf, wordOfBytes_toNat _ _, tick_of_fetch_some hw hf⟩

/-- Settles O9: the decoder is total, so a word without an instruction is rejected. -/
theorem illegalOpcodeIsSurfaced : Obligations.IllegalOpcodeIsSurfaced := by
  intro s op hw hf
  refine ⟨fun hno => ?_, fun _ => tick_of_decode_ok hw hf, advance_pc s⟩
  exact tick_of_decode_error hw hf ((decode_total op).resolve_left hno)

/-! ## Errors (R65, R131) -/

/-- An operation that returns an error leaves the state after that error. -/
theorem call_error {op : HostOp} {s t : State} {f : Fault} (h : call op s = (t, .error f)) : t = afterError f s := by
  unfold call at h
  cases hs : serve op s with
  | next u =>
    rw [hs] at h
    have hreply := congrArg Prod.snd h
    by_cases hop : op = .readDisplay <;> simp [hop] at hreply
  | fault e => rw [hs] at h; cases h; rfl
  | refused e => rw [hs] at h; cases h

/-- An error changes nothing but pc. -/
theorem afterError_frame (f : Fault) (s : State) : KeepsAllBut [.pc] s (afterError f s) := by
  rcases afterError_eq f s with e | e <;> rw [e]
  · exact jump_frame s s.pc
  · exact jump_frame s (s.pc + 2)

/-- Settles O10: the state after the operation is the state after its error, whose pc each error kind names. -/
theorem errorsChangeOnlyPc : Obligations.ErrorsChangeOnlyPc := by
  intro op s t f h
  rw [call_error h]
  exact ⟨afterError_frame f s, by cases f <;> rfl⟩

/-! ## Timers, keys and latch across a tick (R67) -/

/-- An instruction writes DT only if it loads it (R125). -/
theorem exec_dt_cases {i : Instr} {s t : State} (h : exec i s = .next t) :
    t.dt = s.dt ∨ ∃ x, i = .ldDtVx x ∧ t.dt = readV x s := by
  cases i with
  | ldDtVx x => cases h; exact .inr ⟨x, rfl, rfl⟩
  | _ => exact .inl (exec_keepsAllBut h .dt (by simp [mayWrite]))

/-- An instruction writes ST only if it loads it (R126). -/
theorem exec_st_cases {i : Instr} {s t : State} (h : exec i s = .next t) :
    t.st = s.st ∨ ∃ x, i = .ldStVx x ∧ t.st = readV x s := by
  cases i with
  | ldStVx x => cases h; exact .inr ⟨x, rfl, rfl⟩
  | _ => exact .inl (exec_keepsAllBut h .st (by simp [mayWrite]))

/-- No instruction writes the keys (R20). -/
theorem keys_not_mem_mayWrite (i : Instr) : Part.keys ∉ mayWrite i := by
  cases i <;> simp [mayWrite]

/-- An instruction leaves the latch or, entering a wait, clears it (R122). -/
theorem exec_keyLatch {i : Instr} {s t : State} (h : exec i s = .next t) :
    t.keyLatch = s.keyLatch ∨ t.keyLatch = none := by
  rcases exec_wait_cases h with ⟨-, hk⟩ | ⟨x, -, rfl⟩
  · exact .inl hk
  · exact .inr rfl

/-- A tick of the wait keeps keys and timers, and leaves the latch or clears it (R123). -/
theorem waitTick_keeps (x : Nibble) (s : State) :
    (waitTick x s).keys = s.keys ∧ ((waitTick x s).keyLatch = s.keyLatch ∨ (waitTick x s).keyLatch = none) ∧
      (waitTick x s).dt = s.dt ∧ (waitTick x s).st = s.st := by
  rcases waitTick_cases x s with ⟨-, e⟩ | ⟨k, -, e⟩ <;> rw [e]
  · exact ⟨rfl, .inl rfl, rfl, rfl⟩
  · exact ⟨rfl, .inr rfl, rfl, rfl⟩

/-- Settles O52: a tick that answers a next state is a tick of the wait or an instruction, and an instruction that loads a
timer was decoded from its own word. -/
theorem ticksLeaveTimersAndKeys : Obligations.TicksLeaveTimersAndKeys := by
  intro s t ht
  rcases tick_cases s with ⟨x, -, e⟩ | ⟨-, -, e⟩ | ⟨op, q, -, -, -, e⟩ | ⟨op, i, -, hf, hd, e⟩ <;> rw [e] at ht
  · cases ht
    obtain ⟨hkeys, hlatch, hdt, hst⟩ := waitTick_keeps x s
    exact ⟨keyPressed_congr hkeys, hlatch, .inl hdt, .inl hst⟩
  · cases ht
  · cases ht
  · have hword {j : Instr} (hj : i = j) : fetch s = some (encode j) := by
      rw [hf, ← hj, decodedWordIsTheEncoding op i hd]
    refine ⟨exec_keepsAllBut ht .keys (keys_not_mem_mayWrite i), exec_keyLatch (s := advance s) ht, ?_, ?_⟩
    · exact (exec_dt_cases ht).imp_right fun ⟨x, hi, hdt⟩ => ⟨x, hword hi, hdt⟩
    · exact (exec_st_cases ht).imp_right fun ⟨x, hi, hst⟩ => ⟨x, hword hi, hst⟩

/-! ## Another input of the host instead (R68) -/

section
variable (h : List HostOp) (r : Option Byte) (d : Nat) (s : State)

/-- The skip does not look at the host's input. -/
theorem skipIf_withInputs (b : Bool) : skipIf b (withInputs h r d s) = withInputs h r d (skipIf b s) := by
  cases b <;> rfl

/-- RET looks at the stack, not at the host's input. -/
theorem execRet_withInputs : execRet (withInputs h r d s) = mapNext (withInputs h r d) (execRet s) := by
  have htop : topEntry (withInputs h r d s) = topEntry s := rfl
  simp only [execRet, raise, htop, apply_ite (mapNext (withInputs h r d))]
  cases topEntry s <;> rfl

/-- CALL looks at the stack, not at the host's input. -/
theorem execCall_withInputs (nnn : Addr12) :
    execCall nnn (withInputs h r d s) = mapNext (withInputs h r d) (execCall nnn s) := by
  simp only [execCall, raise, apply_ite (mapNext (withInputs h r d))]
  rfl

/-- Any instruction but RND answers the same under another input of the host, but for its place in the next state. -/
theorem exec_withInputs {i : Instr} (hi : ∀ x kk, i ≠ .rnd x kk) :
    exec i (withInputs h r d s) = mapNext (withInputs h r d) (exec i s) := by
  cases i with
  | rnd x kk => exact absurd rfl (hi x kk)
  | ret => exact execRet_withInputs h r d s
  | call nnn => exact execCall_withInputs h r d s nnn
  | seImm | sneImm | seReg | sneReg | skp | sknp => exact congrArg _ (skipIf_withInputs h r d s _)
  | drw x y n =>
    exact withRange_map (withInputs h r d) _ _
      (writeFlag (drawn x y n s).hit (writeDisp (drawn x y n s).disp s))
  | ldB | ldMemVx =>
    exact (congrArg _ (writeBytes_comm (fun _ _ _ => rfl) _ _ s)).trans (withRange_map (withInputs h r d) _ _ _)
  | ldVxMem =>
    exact (congrArg _ (writeVs_comm (fun _ _ _ => rfl) _ _ s)).trans (withRange_map (withInputs h r d) _ _ _)
  | _ => rfl

end

/-- Settles O56: the other instructions commute with a change of the host's input, and no instruction is refused. -/
theorem onlyRandomReadsTheDraw : Obligations.OnlyRandomReadsTheDraw := by
  intro i s h r d hi
  refine ⟨fun t ht => ?_, fun f hf => ?_, fun e he => ?_⟩
  · rw [exec_withInputs h r d s hi, ht, mapNext_next]
  · rw [exec_withInputs h r d s hi, hf, mapNext_fault]
  · rcases exec_next_or_fault i s with ⟨t, ht⟩ | ⟨f, hf⟩
    · cases ht.symm.trans he
    · cases hf.symm.trans he

end Sys2Proof.Machine
end

section
/-! PROOFS. The statements of 41_flow.md: jumps (R72, R78), CALL and RET (R71, R73), and the skips (R70, R74 to R77). On
entry pc is the advanced pc (R62). -/

namespace Sys2Proof.Machine

/-! ## Jumps (R72, R78) -/

/-- An address field is its own value as a word. -/
@[simp] theorem addrImm_toNat (nnn : Addr12) : (addrImm nnn).toNat = nnn.toNat := by
  unfold addrImm; bv_omega

/-- The sum of an address field and a byte does not wrap at 16 bits: it is 0x10FE at most. -/
theorem addrImm_add_wideV_toNat (nnn : Addr12) (x : Nibble) (s : State) :
    (addrImm nnn + wideV x s).toNat = nnn.toNat + (readV x s).toNat := by
  unfold addrImm wideV; bv_omega

/-- Settles O13: JP is the jump to its address field. -/
theorem jumpWritesPc : Obligations.JumpWritesPc :=
  fun nnn s => ⟨encodeThenDecodeIsIdentity (.jp nnn), _, rfl, addrImm_toNat nnn, jump_frame s _⟩

/-- Settles O18: JP V0 is the jump to the sum, which does not wrap. -/
theorem jumpWithOffsetAddsV0 : Obligations.JumpWithOffsetAddsV0 :=
  fun nnn s => ⟨_, rfl, addrImm_add_wideV_toNat nnn 0 s, jump_frame s _⟩

/-! ## CALL (R73) -/

/-- CALL with an entry left jumps after the push of the advanced pc. -/
theorem execCall_of_room {s : State} (h : s.sp.toNat < 16) (nnn : Addr12) :
    execCall nnn s = .next (jump (addrImm nnn) (push s.pc s)) := by
  rw [execCall, if_neg h.ne, if_pos h]

/-- CALL with 16 live entries overflows. -/
theorem execCall_of_full {s : State} (h : s.sp.toNat = 16) (nnn : Addr12) : execCall nnn s = .fault .stackOverflow :=
  if_pos h

/-- CALL with an SP that is no count of live entries stops (log 5). -/
theorem execCall_of_past {s : State} (h : 16 < s.sp.toNat) (nnn : Addr12) :
    execCall nnn s = .fault (.stackPointerOutOfRange s.sp) := by
  rw [execCall, if_neg h.ne', if_neg h.not_gt, raise]

/-- A push with room counts one entry more: SP does not wrap. -/
theorem push_sp_toNat {s : State} (h : s.sp.toNat < 16) (w : Word) : (push w s).sp.toNat = s.sp.toNat + 1 := by
  rw [push_sp]; bv_omega

/-- A push with room writes the entry at the old SP. -/
theorem push_stack_getElem?_self {s : State} (h : s.sp.toNat < 16) (w : Word) :
    (push w s).stack[s.sp.toNat]? = some w := by
  simp [h]

/-- A push keeps every other entry. -/
theorem push_stack_getElem?_ne {k : Nat} {s : State} (hk : k ≠ s.sp.toNat) (w : Word) :
    (push w s).stack[k]? = s.stack[k]? := by
  rw [push_stack, Vector.getElem?_setIfInBounds_ne hk.symm]

/-- Settles O14: SP below, at and above 16 are the three answers of CALL. -/
theorem callPushesTheAdvancedPc : Obligations.CallPushesTheAdvancedPc := by
  intro nnn s
  refine ⟨fun hroom => ?_, fun hfull => execCall_of_full hfull nnn, fun hpast => execCall_of_past hpast nnn⟩
  exact ⟨_, execCall_of_room hroom nnn, addrImm_toNat nnn, push_sp_toNat hroom s.pc, push_stack_getElem?_self hroom s.pc,
    fun _ hk => push_stack_getElem?_ne hk s.pc, jump_push_frame s _ _⟩

/-- Calls that fit above the live entries complete, and each counts one entry more. -/
theorem execAll_calls (targets : List Addr12) (s : State) (h : s.sp.toNat + targets.length ≤ 16) :
    ∃ t, execAll (targets.map Instr.call) s = .next t ∧ t.sp.toNat = s.sp.toNat + targets.length := by
  induction targets generalizing s with
  | nil => exact ⟨s, rfl, rfl⟩
  | cons nnn rest ih =>
    rw [List.length_cons] at h ⊢
    have hroom : (advance s).sp.toNat < 16 := by rw [advance_sp]; omega
    have hcall : exec (.call nnn) (advance s) = .next _ := execCall_of_room hroom nnn
    have hsp : (push (advance s).pc (advance s)).sp.toNat = s.sp.toNat + 1 := push_sp_toNat hroom _
    rw [List.map_cons, execAll, hcall]
    obtain ⟨t, ht, htsp⟩ := ih (jump (addrImm nnn) (push (advance s).pc (advance s))) (by rw [jump_sp]; omega)
    exact ⟨t, ht, by rw [htsp, jump_sp]; omega⟩

/-- Settles O20: 16 calls from SP = 0 fit, and fill the stack. -/
theorem sixteenCallsThenOverflow : Obligations.SixteenCallsThenOverflow := by
  intro targets s hsp hlen
  have hzero : s.sp.toNat = 0 := congrArg BitVec.toNat hsp
  obtain ⟨t, ht, htsp⟩ := execAll_calls targets s (by omega)
  have hfull : t.sp.toNat = 16 := by omega
  exact ⟨t, ht, hfull, execCall_of_full hfull⟩

/-! ## RET (R71) -/

/-- RET with no live entry underflows. -/
theorem execRet_of_empty {s : State} (h : s.sp.toNat = 0) : execRet s = .fault .stackUnderflow :=
  if_pos (BitVec.eq_of_toNat_eq h)

/-- With a live entry SP - 1 does not wrap. -/
theorem sp_sub_one_toNat {s : State} (h : 0 < s.sp.toNat) : (s.sp - 1).toNat = s.sp.toNat - 1 := by
  bv_omega

/-- The top entry is the one below SP. -/
theorem topEntry_of_pos {s : State} (h : 0 < s.sp.toNat) : topEntry s = s.stack[s.sp.toNat - 1]? := by
  rw [topEntry, sp_sub_one_toNat h]

/-- RET with an SP that is no count of live entries stops (log 5). -/
theorem execRet_of_past {s : State} (h : 16 < s.sp.toNat) : execRet s = .fault (.stackPointerOutOfRange s.sp) := by
  have hne : s.sp ≠ 0 := by bv_omega
  have htop : topEntry s = none := by
    rw [topEntry_of_pos (by omega), Vector.getElem?_eq_none (by omega)]
  rw [execRet, if_neg hne, htop, raise]

/-- Settles O15: with SP from 1 to 16 the top entry exists and is popped. -/
theorem returnPopsIntoPc : Obligations.ReturnPopsIntoPc := by
  intro s
  refine ⟨execRet_of_empty, fun hpos hle => ?_, execRet_of_past⟩
  have hne : s.sp ≠ 0 := by bv_omega
  have hentry : s.stack[s.sp.toNat - 1]? = some (s.stack[s.sp.toNat - 1]'(by omega)) := Vector.getElem?_eq_getElem _
  exact ⟨_, execRet_of_topEntry hne ((topEntry_of_pos hpos).trans hentry), hentry, sp_sub_one_toNat hpos,
    jump_dropTop_frame s _⟩

/-! ## Skips (R74 to R77) -/

/-- A skip on equal bytes moves pc two further exactly when they are equal. -/
theorem skipIf_beq_pc (a b : Byte) (s : State) : (skipIf (a == b) s).pc = if a = b then s.pc + 2 else s.pc := by
  simp [skipIf_eq]

/-- A skip on unequal bytes moves pc two further exactly when they differ. -/
theorem skipIf_bne_pc (a b : Byte) (s : State) : (skipIf (a != b) s).pc = if a ≠ b then s.pc + 2 else s.pc := by
  simp [skipIf_eq]

/-- Settles O16: both are skips on the register and the immediate. -/
theorem skipsOnImmediate : Obligations.SkipsOnImmediate :=
  fun x kk s => ⟨encodeThenDecodeIsIdentity (.seImm x kk), encodeThenDecodeIsIdentity (.sneImm x kk),
    ⟨_, rfl, skipIf_beq_pc _ _ s, skipIf_frame s _⟩, ⟨_, rfl, skipIf_bne_pc _ _ s, skipIf_frame s _⟩⟩

/-- A nonzero low nibble makes a word of family 5 or 9 illegal (R53). -/
theorem decode_wordXYN_of_ne_zero {a n : Nibble} (ha : a = 0x5 ∨ a = 0x9) (hn : n ≠ 0) (x y : Nibble) :
    decode (wordXYN a x y n) = .error (.illegalOpcode (wordXYN a x y n)) := by
  rw [illegalWordsByFamily, fieldN3_wordXYN, fieldN_wordXYN]
  rcases ha with ha | ha
  · exact .inr (.inl ⟨ha, hn⟩)
  · exact .inr (.inr (.inr (.inl ⟨ha, hn⟩)))

/-- Settles O17: both are skips on two registers, and a nonzero low nibble is an illegal word of family 5 or 9. -/
theorem skipsOnRegister : Obligations.SkipsOnRegister :=
  fun x y s => ⟨encodeThenDecodeIsIdentity (.seReg x y), encodeThenDecodeIsIdentity (.sneReg x y),
    fun _ hn => ⟨decode_wordXYN_of_ne_zero (.inl rfl) hn x y, decode_wordXYN_of_ne_zero (.inr rfl) hn x y⟩,
    ⟨_, rfl, skipIf_beq_pc _ _ s, skipIf_frame s _⟩, ⟨_, rfl, skipIf_bne_pc _ _ s, skipIf_frame s _⟩⟩

end Sys2Proof.Machine
end

section
/-! PROOFS. The statements of 42_load_alu.md: loads and logic without a flag (R80 to R85), the instructions that write a
result and then a flag (R86 to R92), and the random byte (R95). -/

namespace Sys2Proof.Machine

/-! ## The register written (R80 to R85) -/

/-- The register written reads as the byte written. -/
theorem readV_writeV_self (x : Nibble) (b : Byte) (s : State) : readV x (writeV x b s) = b := by
  rw [readV_writeV, if_pos rfl]

/-- Settles O21: LD Vx, kk is the write of the immediate. -/
theorem loadImmediateWritesKK : Obligations.LoadImmediateWritesKK :=
  fun x kk s => ⟨encodeThenDecodeIsIdentity (.ldImm x kk), _, rfl, readV_writeV_self x kk s, writeV_regs x kk s,
    writeV_frame s x kk⟩

/-- Settles O22: ADD Vx, kk is the write of the sum of bytes, which wraps. -/
theorem addImmediateWrapsWithoutFlag : Obligations.AddImmediateWrapsWithoutFlag := by
  intro x kk s
  refine ⟨encodeThenDecodeIsIdentity (.addImm x kk), _, rfl, ?_, writeV_regs x _ s, writeV_frame s x _⟩
  rw [readV_writeV_self, BitVec.toNat_add]

/-- Settles O23: LD Vx, Vy is the write of the source register. -/
theorem loadRegisterCopies : Obligations.LoadRegisterCopies :=
  fun x y s => ⟨encodeThenDecodeIsIdentity (.ldReg x y), _, rfl, readV_writeV_self x _ s, writeV_regs x _ s,
    writeV_frame s x _⟩

/-- Settles O24: each of the three writes the bitwise operation of the two registers, and no flag. -/
theorem logicIsBitwiseWithoutFlag : Obligations.LogicIsBitwiseWithoutFlag := by
  intro x y s
  refine ⟨⟨_, rfl, writeV_regs x _ s, writeV_frame s x _, fun k _ => ?_⟩,
    ⟨_, rfl, writeV_regs x _ s, writeV_frame s x _, fun k _ => ?_⟩,
    ⟨_, rfl, writeV_regs x _ s, writeV_frame s x _, fun k _ => ?_⟩⟩
  · rw [readV_writeV_self, BitVec.getLsbD_or]
  · rw [readV_writeV_self, BitVec.getLsbD_and]
  · rw [readV_writeV_self, BitVec.getLsbD_xor]

/-! ## A result and its flag (R86 to R92) -/

/-- Where the result is the byte `n` and the flag stands for `p`: the destination holds `n` unless the flag, written
last, replaces it, VF tells whether `p`, and nothing else changes (R91; D15, log 16). -/
theorem writeResultFlag_spec {b : Byte} {c : Bool} {n : Nat} {p : Prop} [Decidable p] (hb : b.toNat = n)
    (hc : c = decide p) (x : Nibble) (s : State) :
    (x ≠ vf → (readV x (writeResultFlag x b c s)).toNat = n) ∧
      readV vf (writeResultFlag x b c s) = (if p then 1 else 0) ∧
      KeepsRegsBut [x, vf] s (writeResultFlag x b c s) ∧ KeepsAllBut [.v] s (writeResultFlag x b c s) := by
  refine ⟨fun hx => ?_, ?_, writeResultFlag_frame s x b c⟩
  · rw [readV_writeResultFlag, if_neg hx, if_pos rfl, hb]
  · simp [readV_writeResultFlag, flagByte, hc]

/-- The difference of two bytes, by whether it borrows (R92). -/
theorem byte_sub_toNat (a b : Byte) :
    (a - b).toNat = if b.toNat ≤ a.toNat then a.toNat - b.toNat else a.toNat + 256 - b.toNat := by
  split <;> bv_omega

/-- A byte shifted right by one is its half, rounded down. -/
theorem byte_ushiftRight_one_toNat (a : Byte) : (a >>> 1).toNat = a.toNat / 2 := by
  rw [BitVec.toNat_ushiftRight, Nat.shiftRight_one]

/-- A byte shifted left by one is its double modulo 256. -/
theorem byte_shiftLeft_one_toNat (a : Byte) : (a <<< 1).toNat = a.toNat * 2 % 256 := by
  rw [BitVec.toNat_shiftLeft, Nat.shiftLeft_eq, Nat.pow_one]

/-- The bit a shift right takes out is the remainder of the halving (R88). -/
theorem lowBit_eq_decide (a : Byte) : lowBit a = decide (a.toNat % 2 = 1) :=
  Nat.testBit_zero a.toNat

/-- The bit a shift left takes out is set from 128 on (R90). -/
theorem highBit_eq_decide (a : Byte) : highBit a = decide (128 ≤ a.toNat) :=
  (BitVec.msb_eq_getLsbD_last a).symm.trans (BitVec.msb_eq_decide a)

/-- Settles O25: ADD writes the sum of bytes, then the carry. -/
theorem addRegisterSetsCarry : Obligations.AddRegisterSetsCarry :=
  fun x _ s => ⟨_, rfl, writeResultFlag_spec (BitVec.toNat_add _ _) rfl x s⟩

/-- Settles O26: SUB and SUBN write the difference of bytes, then the not-borrow, the operands in either order. -/
theorem subtractionsSetNotBorrow : Obligations.SubtractionsSetNotBorrow :=
  fun x _ s => ⟨⟨_, rfl, writeResultFlag_spec (byte_sub_toNat _ _) rfl x s⟩,
    ⟨_, rfl, writeResultFlag_spec (byte_sub_toNat _ _) rfl x s⟩⟩

/-- Settles O27: SHR and SHL write the shifted operand, then the bit moved out; `SHIFT_SRC` chooses the operand only. -/
theorem shiftsMoveOneBitIntoVF : Obligations.ShiftsMoveOneBitIntoVF := by
  intro x y s a ha
  have hop : shiftOperand x y s = a := ha.symm
  subst hop
  exact ⟨⟨_, rfl, writeResultFlag_spec (byte_ushiftRight_one_toNat _) (lowBit_eq_decide _) x s⟩,
    ⟨_, rfl, writeResultFlag_spec (byte_shiftLeft_one_toNat _) (highBit_eq_decide _) x s⟩⟩

/-! ## The random byte (R95) -/

/-- A draw the host names is the draw. -/
theorem draw_of_named {s : State} {r : Byte} (h : s.rnd = some r) : draw s = r := by
  rw [draw, h, Option.getD_some]

/-- Settles O29: RND is the write of the masked draw; only a free draw is counted. -/
theorem randomIsTheDrawMasked : Obligations.RandomIsTheDrawMasked := by
  intro x kk s
  have hx : readV x (useDraw (writeV x (draw s &&& kk) s)) = draw s &&& kk := by
    rw [readV_useDraw, readV_writeV_self]
  refine ⟨_, rfl, hx, ?_, fun r hr => ⟨?_, ?_⟩, fun hfree => ?_, exec_keepsRegsBut (i := .rnd x kk) rfl,
    useDraw_writeV_frame s x _⟩
  · rw [hx, BitVec.and_assoc, BitVec.and_not_self]
    exact BitVec.and_zero
  · rw [hx, draw_of_named hr]
  · simp [hr]
  · simp [hfree]

end Sys2Proof.Machine
end

section
/-! PROOFS. The statements of 43_index_memory.md: what the index register is set to (R100 to R102), and the loads and stores
at I (R103 to R107), whose range is checked first. -/

namespace Sys2Proof.Machine

/-! ## The index register (R100 to R102) -/

/-- The sum of I and a register wraps at 16 bits (R101; D16, log 17). -/
theorem index_add_wideV_toNat (x : Nibble) (s : State) :
    (s.i + wideV x s).toNat = (s.i.toNat + (readV x s).toNat) % 65536 := by
  unfold wideV; bv_omega

/-- The address of a glyph does not wrap: the last glyph lies at 75 from FONT_BASE on (R102). -/
theorem glyphAddr_toNat (x : Nibble) (s : State) : (glyphAddr x s).toNat = fontBase + 5 * ((readV x s).toNat % 16) := by
  have hfit : fontBase + 75 < 65536 := by decide
  have hnibble : ((readV x s).setWidth 4 : Nibble).toNat = (readV x s).toNat % 16 := BitVec.toNat_setWidth _ _
  rw [glyphAddr, Config.glyphSize, hnibble, BitVec.toNat_ofNat, Nat.mod_eq_of_lt (by omega)]

/-- Settles O30: LD I, nnn is the write of its address field. -/
theorem loadIndexZeroExtends : Obligations.LoadIndexZeroExtends :=
  fun nnn s => ⟨encodeThenDecodeIsIdentity (.ldI nnn), _, rfl, addrImm_toNat nnn, writeI_frame s _⟩

/-- Settles O31: ADD I, Vx is the write of the sum of words, which wraps, and of no flag. -/
theorem addIndexWrapsAtSixteenBits : Obligations.AddIndexWrapsAtSixteenBits :=
  fun x s => ⟨_, rfl, index_add_wideV_toNat x s, writeI_frame s _⟩

/-- Settles O32: LD F, Vx is the write of the glyph's address. -/
theorem fontAddressOfLowNibble : Obligations.FontAddressOfLowNibble :=
  fun x s => ⟨_, rfl, glyphAddr_toNat x s, writeI_frame s _⟩

/-! ## Runs of bytes and registers, element by element -/

/-- A range that ends inside the address space passes the check (R33). -/
theorem withRange_of_fits {a n : Nat} (h : a + n ≤ 4096) (t : State) : withRange a n t = .next t :=
  if_pos ((inMemory_iff a n).2 (.inr h))

/-- A byte stored is the byte read at its place. -/
theorem readByte_writeBytes_getElem {k : Nat} {bs : List Byte} (hk : k < bs.length) (a : Nat) (s : State) :
    readByte (a + k) (writeBytes a bs s) = bs[k] := by
  rw [readByte_writeBytes, if_pos (by omega), Nat.add_sub_cancel_left, List.getD_eq_getElem _ _ hk]

/-- A register loaded holds the byte at its place. -/
theorem readV_writeVs_getElem {r : Nibble} {bs : List Byte} (hr : r.toNat < bs.length) (hbs : bs.length ≤ 16) (s : State) :
    readV r (writeVs 0 bs s) = bs[r.toNat] := by
  rw [readV_writeVs r 0 bs s (by omega), if_pos (by omega), Nat.sub_zero, List.getD_eq_getElem _ _ hr]

/-- A register above those loaded is kept. -/
theorem readV_writeVs_above {r : Nibble} {bs : List Byte} (hr : bs.length ≤ r.toNat) (s : State) :
    readV r (writeVs 0 bs s) = readV r s := by
  rw [readV_writeVs r 0 bs s (by omega), if_neg (by omega)]

/-- Among V0 to Vx the register `r` stands at its own number. -/
theorem readVs_getElem {x r : Nibble} {s : State} (hr : r.toNat < (readVs x s).length) :
    (readVs x s)[r.toNat] = readV r s := by
  simp [readVs]

/-- Among the bytes from `a` on the byte at `a + k` stands at `k`. -/
theorem readBytes_getElem {a n k : Nat} {s : State} (hk : k < (readBytes a n s).length) :
    (readBytes a n s)[k] = readByte (a + k) s := by
  simp [readBytes]

/-- Where the digits of a byte are stored, their bytes are the hundreds, the tens and the ones as numbers (R103). -/
theorem readByte_writeBytes_digits (a : Nat) (b : Byte) (s : State) :
    (readByte a (writeBytes a (digits b) s)).toNat = b.toNat / 100 ∧
      (readByte (a + 1) (writeBytes a (digits b) s)).toNat = b.toNat / 10 % 10 ∧
      (readByte (a + 2) (writeBytes a (digits b) s)).toNat = b.toNat % 10 := by
  have hb : b.toNat < 256 := b.isLt
  have hdigit (k n : Nat) (hk : k < 3) (hd : (digits b)[k] = BitVec.ofNat 8 n) (hn : n < 256) :
      (readByte (a + k) (writeBytes a (digits b) s)).toNat = n := by
    rw [readByte_writeBytes_getElem hk, hd, BitVec.toNat_ofNat, Nat.mod_eq_of_lt hn]
  exact ⟨hdigit 0 _ (by decide) rfl (by omega), hdigit 1 _ (by decide) rfl (by omega),
    hdigit 2 _ (by decide) rfl (by omega)⟩

/-! ## Loads and stores at I (R103 to R107) -/

/-- Settles O33: the three digits are stored, and they make up the number. -/
theorem decimalDigitsAreStored : Obligations.DecimalDigitsAreStored := by
  intro x s hfit
  obtain ⟨hhundreds, htens, hones⟩ := readByte_writeBytes_digits (baseI s) (readV x s) s
  refine ⟨_, withRange_of_fits hfit _, ?_, ?_, ?_, writeBytes_outside s _ (digits (readV x s)), writeBytes_frame s _ _⟩
  · rw [← baseI, hhundreds, htens, hones]
    omega
  · exact htens.trans_lt (Nat.mod_lt _ (by decide))
  · exact hones.trans_lt (Nat.mod_lt _ (by decide))

/-- Settles O34: V0 to Vx are stored, each at its own number from I on. -/
theorem registersAreStored : Obligations.RegistersAreStored := by
  intro x s hfit
  have houtside := writeBytes_outside s (baseI s) (readVs x s)
  rw [readVs_length] at houtside
  refine ⟨_, withRange_of_fits hfit _, fun r hr => ?_, houtside, writeBytes_frame s _ _⟩
  have hplace : r.toNat < (readVs x s).length := by rw [readVs_length]; omega
  exact (readByte_writeBytes_getElem hplace (baseI s) s).trans (readVs_getElem hplace)

/-- Settles O35: the bytes from I on are loaded into V0 to Vx, each by its own number. -/
theorem registersAreLoaded : Obligations.RegistersAreLoaded := by
  intro x s hfit
  have hlen : (readBytes (baseI s) (x.toNat + 1) s).length = x.toNat + 1 := readBytes_length _ _ _
  refine ⟨_, withRange_of_fits hfit _, fun r hr => ?_, fun r hr => readV_writeVs_above (by omega) s, writeVs_frame s _ _⟩
  exact (readV_writeVs_getElem (by omega) (by omega) s).trans (readBytes_getElem _)

/-- Settles O37: the store keeps I, so the load reads the bytes stored, whatever became of the registers. -/
theorem storeThenLoadRestoresRegisters : Obligations.StoreThenLoadRestoresRegisters := by
  intro x s t u hstore hi hmem
  obtain ⟨-, hempty | hfit⟩ := withRange_next hstore
  · exact absurd hempty (Nat.succ_ne_zero _)
  obtain ⟨t', hstore', hstored, -, hframe⟩ := registersAreStored x s hfit
  obtain rfl : t = t' := Host.Outcome.next.inj (hstore.symm.trans hstore')
  have hbase : u.i = s.i := hi.trans (hframe .i (by decide))
  obtain ⟨w, hload, hloaded, -⟩ := registersAreLoaded x u (hbase ▸ hfit)
  refine ⟨w, hload, fun r hr => ?_⟩
  calc readV r w = readByte (u.i.toNat + r.toNat) u := hloaded r hr
    _ = readByte (s.i.toNat + r.toNat) t := by rw [hbase, readByte_congr hmem]
    _ = readV r s := hstored r hr

end Sys2Proof.Machine
end

section
/-! PROOFS. The statements of 44_display.md: the clear (R110) and the draw (R111 to R113). -/

namespace Sys2Proof.Machine

/-- Settles O40: CLS is the write of the clear display. -/
theorem clearTurnsEveryCellOff : Obligations.ClearTurnsEveryCellOff :=
  fun s => ⟨encodeThenDecodeIsIdentity .cls, _, rfl, cell_clearDisplay, writeDisp_frame s _⟩

/-! ## Flipping a set of cells (R111) -/

/-- From the canvas `d` to `e` the cells of `P` were flipped and no others, and a collision was noted iff one of them was
on, or one was noted before. -/
structure Flips (P : Nat → Nat → Prop) (d e : Canvas) : Prop where
  cells : ∀ px py, px < 64 → py < 32 →
    (P px py → cell px py e.disp = !cell px py d.disp) ∧ (¬ P px py → cell px py e.disp = cell px py d.disp)
  hit_iff : e.hit = true ↔
    d.hit = true ∨ ∃ px py, px < 64 ∧ py < 32 ∧ P px py ∧ cell px py d.disp = true

/-- The flips of a set are those of any set of the same cells. -/
theorem Flips.congr {P Q : Nat → Nat → Prop} {d e : Canvas} (h : Flips P d e) (hPQ : ∀ px py, P px py ↔ Q px py) :
    Flips Q d e := by
  obtain rfl : P = Q := funext₂ fun px py => propext (hPQ px py)
  exact h

/-- Doing nothing flips no cell. -/
theorem flips_nothing (d : Canvas) : Flips (fun _ _ => False) d d :=
  ⟨fun _ _ _ _ => ⟨False.elim, fun _ => rfl⟩, by simp⟩

/-- Two sets with no common cell are flipped one after the other: the second meets its cells as they were at first. -/
theorem Flips.trans {P Q : Nat → Nat → Prop} {d e f : Canvas} (hP : Flips P d e) (hQ : Flips Q e f)
    (hdisj : ∀ px py, P px py → ¬ Q px py) : Flips (fun px py => P px py ∨ Q px py) d f := by
  refine ⟨fun px py hx hy => ?_, ?_⟩
  · obtain ⟨hPin, hPout⟩ := hP.cells px py hx hy
    obtain ⟨hQin, hQout⟩ := hQ.cells px py hx hy
    refine ⟨fun h => ?_, fun h => ?_⟩
    · rcases h with hp | hq
      · rw [hQout (hdisj px py hp), hPin hp]
      · rw [hQin hq, hPout fun hp => hdisj px py hp hq]
    · rw [not_or] at h
      rw [hQout h.2, hPout h.1]
  · have hkept (px py : Nat) (hx : px < 64) (hy : py < 32) (hq : Q px py) : cell px py e.disp = cell px py d.disp :=
      (hP.cells px py hx hy).2 fun hp => hdisj px py hp hq
    rw [hQ.hit_iff, hP.hit_iff]
    constructor
    · rintro ((hd | ⟨px, py, hx, hy, hp, hon⟩) | ⟨px, py, hx, hy, hq, hon⟩)
      · exact .inl hd
      · exact .inr ⟨px, py, hx, hy, .inl hp, hon⟩
      · exact .inr ⟨px, py, hx, hy, .inr hq, hkept px py hx hy hq ▸ hon⟩
    · rintro (hd | ⟨px, py, hx, hy, hp | hq, hon⟩)
      · exact .inl (.inl hd)
      · exact .inl (.inr ⟨px, py, hx, hy, hp, hon⟩)
      · exact .inr ⟨px, py, hx, hy, hq, (hkept px py hx hy hq).trans hon⟩

/-- Coordinates count modulo the size of the display (R19). -/
theorem cell_mod (x y : Nat) (d : Display) : cell (x % 64) (y % 32) d = cell x y d := by
  simp [cell]

/-- One bit of a sprite flips the one cell it falls on. -/
theorem drawBit_flips (x y : Nat) (d : Canvas) :
    Flips (fun px py => y % 32 = py ∧ x % 64 = px) d (drawBit x y d) := by
  refine ⟨fun px py hx hy => ?_, ?_⟩
  · rw [drawBit, cell_flipCell, Nat.mod_eq_of_lt hx, Nat.mod_eq_of_lt hy]
    refine ⟨?_, fun h => if_neg fun ⟨ex, ey⟩ => h ⟨ey.symm, ex.symm⟩⟩
    rintro ⟨rfl, rfl⟩
    rw [if_pos ⟨rfl, rfl⟩, cell_mod]
  · rw [drawBit, Bool.or_eq_true]
    refine or_congr_right ⟨fun hon => ?_, ?_⟩
    · exact ⟨x % 64, y % 32, Nat.mod_lt _ (by decide), Nat.mod_lt _ (by decide), ⟨rfl, rfl⟩, by rwa [cell_mod]⟩
    · rintro ⟨_, _, -, -, ⟨rfl, rfl⟩, hon⟩
      rwa [cell_mod] at hon

/-! ## The cells of a sprite, in the order they are drawn (R112) -/

/-- A 1 bit among the columns `cs` of the sprite byte `b`, drawn with its column 0 at (x, y), falls on the cell. -/
def ColsCover (b : Byte) (x y : Nat) (cs : List Nat) (px py : Nat) : Prop :=
  y % 32 = py ∧ ∃ c ∈ cs, (x + c) % 64 = px ∧ spriteBit b c = true

/-- A 1 bit of the sprite of the rows `bs`, drawn with its origin at (x, y), falls on the cell. -/
def RowsCover (bs : List Byte) (x y px py : Nat) : Prop :=
  ∃ r b, bs[r]? = some b ∧ ColsCover b x (y + r) (List.range 8) px py

/-- The first column of a row, then the others. -/
theorem colsCover_cons (b : Byte) (x y c : Nat) (cs : List Nat) (px py : Nat) :
    ColsCover b x y (c :: cs) px py ↔
      (spriteBit b c = true ∧ y % 32 = py ∧ (x + c) % 64 = px) ∨ ColsCover b x y cs px py := by
  simp only [ColsCover, List.exists_mem_cons_iff]
  tauto

/-- The first row of a sprite, then the others from the next row down. -/
theorem rowsCover_cons (b : Byte) (bs : List Byte) (x y px py : Nat) :
    RowsCover (b :: bs) x y px py ↔ ColsCover b x y (List.range 8) px py ∨ RowsCover bs x (y + 1) px py := by
  have hrow (r : Nat) : y + (r + 1) = y + 1 + r := by omega
  constructor
  · rintro ⟨_ | r, b', hb, h⟩
    · cases hb; exact .inl h
    · exact .inr ⟨r, b', hb, hrow r ▸ h⟩
  · rintro (h | ⟨r, b', hb, h⟩)
    · exact ⟨0, b, rfl, h⟩
    · exact ⟨r + 1, b', hb, hrow r ▸ h⟩

/-- The rows of bytes in memory cover the cells of R112's formula. -/
theorem rowsCover_readBytes (s : State) (a n x y px py : Nat) :
    RowsCover (readBytes a n s) x y px py ↔ Covers s a n x y px py := by
  constructor
  · rintro ⟨r, b, hb, hy, c, hc, hx, hbit⟩
    obtain ⟨hr, rfl⟩ := List.getElem?_eq_some_iff.1 hb
    rw [readBytes_getElem] at hbit
    exact ⟨r, c, readBytes_length a n s ▸ hr, List.mem_range.1 hc, hy, hx, hbit⟩
  · rintro ⟨r, c, hr, hc, hy, hx, hbit⟩
    have hlen : r < (readBytes a n s).length := (readBytes_length a n s).symm ▸ hr
    refine ⟨r, _, List.getElem?_eq_getElem hlen, hy, c, List.mem_range.2 hc, hx, ?_⟩
    rwa [readBytes_getElem]

/-! ## The loops of the draw (R111) -/

/-- Columns that differ modulo the width are drawn on different cells. -/
theorem drawCols_flips (b : Byte) (x y : Nat) (cs : List Nat) (d : Canvas) (hcs : cs.Nodup) (hlt : ∀ c ∈ cs, c < 64) :
    Flips (ColsCover b x y cs) d (drawCols b x y cs d) := by
  induction cs generalizing d with
  | nil => exact (flips_nothing d).congr fun px py => by simp [ColsCover]
  | cons c cs ih =>
    obtain ⟨hc, hcs⟩ := List.nodup_cons.1 hcs
    obtain ⟨hclt, hlt⟩ := List.forall_mem_cons.1 hlt
    rw [drawCols]
    by_cases hbit : spriteBit b c = true
    · rw [if_pos hbit]
      refine ((drawBit_flips (x + c) y d).trans (ih _ hcs hlt) ?_).congr fun px py => ?_
      · rintro px py ⟨-, hx⟩ ⟨-, c', hc', hx', -⟩
        have hc'lt := hlt c' hc'
        obtain rfl : c' = c := by omega
        exact hc hc'
      · rw [colsCover_cons, and_iff_right hbit]
    · rw [if_neg hbit]
      exact (ih d hcs hlt).congr fun px py => by rw [colsCover_cons, or_iff_right fun h => hbit h.1]

/-- The 8 columns of one row. -/
theorem drawRow_flips (b : Byte) (x y : Nat) (d : Canvas) :
    Flips (ColsCover b x y (List.range 8)) d (drawRow b x y d) :=
  drawCols_flips b x y (List.range 8) d List.nodup_range fun c hc => by
    have := List.mem_range.1 hc
    omega

/-- As many rows as the display has at most are drawn on different cells. -/
theorem drawSprite_flips (bs : List Byte) (x y : Nat) (d : Canvas) (hlen : bs.length ≤ 32) :
    Flips (RowsCover bs x y) d (drawSprite bs x y d) := by
  induction bs generalizing y d with
  | nil => exact (flips_nothing d).congr fun px py => by simp [RowsCover]
  | cons b bs ih =>
    rw [List.length_cons] at hlen
    refine ((drawRow_flips b x y d).trans (ih (y + 1) _ (by omega)) ?_).congr fun px py => ?_
    · rintro px py ⟨hy, -⟩ ⟨r, b', hb', hy', -⟩
      obtain ⟨hr, -⟩ := List.getElem?_eq_some_iff.1 hb'
      omega
    · exact (rowsCover_cons b bs x y px py).symm

/-- The whole draw flips the cells the sprite covers. -/
theorem drawn_flips (x y n : Nibble) (s : State) :
    Flips (Covers s (baseI s) n.toNat (readV x s).toNat (readV y s).toNat) ⟨s.disp, false⟩ (drawn x y n s) :=
  (drawSprite_flips (readBytes (baseI s) n.toNat s) _ _ _ (by rw [readBytes_length]; omega)).congr
    (rowsCover_readBytes s _ _ _ _)

/-! ## DRW (R111 to R113) -/

/-- A flag byte is 1 exactly for a flag that is set (R11). -/
theorem flagByte_eq_one_iff (c : Bool) : flagByte c = 1 ↔ c = true := by
  cases c <;> simp [flagByte]

/-- Settles O41: the loops flip the covered cells, each once, and the flag tells of the collision. -/
theorem drawFlipsTheCoveredCells : Obligations.DrawFlipsTheCoveredCells := by
  intro x y n s hrange
  have hexec : exec (.drw x y n) s = .next (writeFlag (drawn x y n s).hit (writeDisp (drawn x y n s).disp s)) :=
    if_pos ((inMemory_iff _ _).2 hrange)
  have hflips := drawn_flips x y n s
  have hflag : readV vf (writeFlag (drawn x y n s).hit (writeDisp (drawn x y n s).disp s)) =
      flagByte (drawn x y n s).hit := readV_writeV_self vf _ _
  refine ⟨_, hexec, hflips.cells, ?_, ?_, exec_keepsRegsBut hexec, exec_keepsAllBut hexec⟩
  · rw [hflag]
    exact (flagByte_cases _).symm
  · rw [hflag, flagByte_eq_one_iff, hflips.hit_iff, or_iff_right Bool.false_ne_true]

/-- Which cells a sprite covers depends on the memory alone. -/
theorem covers_congr {s u : State} (hmem : u.mem = s.mem) : Covers u = Covers s := by
  unfold Covers
  simp only [readByte_congr hmem]

/-- Settles O42: the second draw flips the same cells back. -/
theorem drawingTwiceRestoresTheDisplay : Obligations.DrawingTwiceRestoresTheDisplay := by
  intro x y n s t u hdraw hi hmem hdisp hx hy
  obtain ⟨-, hrange⟩ := withRange_next hdraw
  obtain ⟨t', hdraw', hfirst, -⟩ := drawFlipsTheCoveredCells x y n s hrange
  obtain rfl : t = t' := Host.Outcome.next.inj (hdraw.symm.trans hdraw')
  obtain ⟨w, hagain, hsecond, -, hflag, -⟩ := drawFlipsTheCoveredCells x y n u (hi ▸ hrange)
  have hbase : baseI u = baseI s := congrArg BitVec.toNat hi
  rw [hbase, hx, hy, covers_congr hmem, hdisp] at hsecond hflag
  refine ⟨w, hagain, fun px py => ?_, hflag⟩
  have hpx : px % 64 < 64 := Nat.mod_lt _ (by decide)
  have hpy : py % 32 < 32 := Nat.mod_lt _ (by decide)
  obtain ⟨hin, hout⟩ := hfirst _ _ hpx hpy
  obtain ⟨hin', hout'⟩ := hsecond _ _ hpx hpy
  rw [← cell_mod px py w.disp, ← cell_mod px py s.disp]
  by_cases hcov : Covers s (baseI s) n.toNat (readV x s).toNat (readV y s).toNat (px % 64) (py % 32)
  · rw [hin' hcov, hin hcov, Bool.not_not]
  · rw [hout' hcov, hout hcov]

end Sys2Proof.Machine
end

section
/-! PROOFS. The statements of 45_keypad_timers.md: the key skips (R120, R121, R127), the wait for a key and the press that
resolves it (R122, R123, R128), and the moves of the timers (R124 to R126). -/

namespace Sys2Proof.Machine

/-! ## Key skips (R120, R121, R127) -/

/-- The key a key test names is the register modulo 16 (R127). -/
theorem keyIndex_toNat (x : Nibble) (s : State) : (keyIndex x s).toNat = (readV x s).toNat % 16 :=
  BitVec.toNat_setWidth 4 _

/-- A skip moves pc two further exactly when its condition holds (R70). -/
theorem skipIf_pc (c : Bool) (s : State) : (skipIf c s).pc = if c = true then s.pc + 2 else s.pc := by
  rw [skipIf_eq, jump_pc]

/-- Settles O44: both are skips on the state of one key, the one of the low nibble. -/
theorem keySkipsTestTheLowNibble : Obligations.KeySkipsTestTheLowNibble := by
  intro x s k hk
  obtain rfl : k = keyIndex x s := BitVec.eq_of_toNat_eq (hk.trans (keyIndex_toNat x s).symm)
  refine ⟨⟨_, rfl, skipIf_pc _ s, skipIf_frame s _⟩, ⟨_, rfl, ?_, skipIf_frame s _⟩⟩
  simp only [skipIf_pc, Bool.not_eq_true']

/-! ## Entering the wait (R122) -/

/-- After the advance of the cycle, `LD Vx, K` puts pc back where it was. -/
theorem execLdVxK_advance (x : Nibble) (s : State) :
    execLdVxK x (advance s) = .next (writeLatch none (writeWait (.awaitingKey x) s)) := by
  rw [execLdVxK, advance_pc, BitVec.add_sub_cancel]
  rfl

/-- Sub-state and latch are all that their two writes change. -/
theorem writeLatch_writeWait_frame (s : State) (l : Option Nibble) (w : Wait) :
    KeepsAllBut [.wait, .keyLatch] s (writeLatch l (writeWait w s)) := by
  rw [keepsAllBut_iff]; simp [SamePart]

/-- Settles O45: on the advanced pc the instruction takes the advance back, so a tick that fetches it leaves pc. -/
theorem waitForKeyIsEntered : Obligations.WaitForKeyIsEntered := by
  intro x s
  refine ⟨⟨_, rfl, rfl, rfl, rfl, enterWait_frame s _ x⟩, fun hw hf => ?_⟩
  have htick : tick s = exec (.ldVxK x) (advance s) := tick_of_decode_ok hw hf (encodeThenDecodeIsIdentity (.ldVxK x))
  exact ⟨_, htick.trans (execLdVxK_advance x s), rfl, rfl, writeLatch_writeWait_frame s _ _⟩

/-! ## A tick in the wait (R123) -/

/-- In the wait a tick fetches nothing. -/
theorem tick_of_awaitingKey {s : State} {x : Nibble} (hw : s.wait = .awaitingKey x) : tick s = .next (waitTick x s) := by
  simp only [tick, hw]

/-- Without a latched key the wait goes on. -/
theorem waitTick_of_latch_none {s : State} (hk : s.keyLatch = none) (x : Nibble) : waitTick x s = s := by
  simp only [waitTick, hk]

/-- A latched key resolves the wait. -/
theorem waitTick_of_latch_some {s : State} {k : Nibble} (hk : s.keyLatch = some k) (x : Nibble) :
    waitTick x s = advance (writeLatch none (writeWait .running (writeV x (k.setWidth 8) s))) := by
  simp only [waitTick, hk]

/-- Resolving the wait writes a register, sub-state, latch and pc. -/
theorem resolveWait_frame (s : State) (x : Nibble) (b : Byte) :
    KeepsAllBut [.v, .wait, .keyLatch, .pc] s (advance (writeLatch none (writeWait .running (writeV x b s)))) := by
  rw [keepsAllBut_iff]; simp [SamePart]

/-- Settles O46: the two states of the latch are the two ticks of the wait. -/
theorem waitTickResolvesOrRepeats : Obligations.WaitTickResolvesOrRepeats := by
  intro x s hw
  refine ⟨fun hk => ?_, fun k hk => ?_⟩
  · rw [tick_of_awaitingKey hw, waitTick_of_latch_none hk]
  · have htick := (tick_of_awaitingKey hw).trans (congrArg _ (waitTick_of_latch_some hk x))
    have hkey : readV x (writeV x (k.setWidth 8) s) = k.setWidth 8 := readV_writeV_self x _ s
    refine ⟨_, htick, ?_, rfl, rfl, rfl, writeV_regs x _ s, resolveWait_frame s x _⟩
    exact (congrArg BitVec.toNat hkey).trans (BitVec.toNat_setWidth_of_le (by decide))

/-! ## The first press (R128) -/

/-- The first 0-to-1 transition of a wait is recorded and latched (R148). -/
theorem keypress_of_first_press {s : State} {x k : Nibble} (hw : s.wait = .awaitingKey x) (hl : s.keyLatch = none)
    (hk : keyPressed k s = false) : keypress k true s = writeLatch (some k) (writeKey k true s) := by
  simp [keypress, isWaiting, hw, hl, hk]

/-- Once a key is latched, a key event is recorded only (R128). -/
theorem keypress_of_latched {s : State} {k : Nibble} (hl : s.keyLatch = some k) (j : Nibble) (p : Bool) :
    keypress j p s = writeKey j p s := by
  simp [keypress, hl]

/-- Key `k` is latched in a wait for `Vx` that stands at `pc`. -/
structure WaitLatched (x k : Nibble) (pc : Word) (s : State) : Prop where
  wait : s.wait = .awaitingKey x
  keyLatch : s.keyLatch = some k
  pc : s.pc = pc

/-- The first press of a wait latches its key and leaves the wait where it stands. -/
theorem waitLatched_of_first_press {s : State} {x k : Nibble} (hw : s.wait = .awaitingKey x) (hl : s.keyLatch = none)
    (hk : keyPressed k s = false) : WaitLatched x k s.pc (keypress k true s) := by
  rw [keypress_of_first_press hw hl hk]
  exact ⟨hw, rfl, rfl⟩

/-- A key, timer or display-read call leaves a latched wait as it is (R137, R155). -/
theorem waitLatched_call {s : State} {x k : Nibble} {pc : Word} {e : HostOp} (h : WaitLatched x k pc s)
    (he : isEvent e = true) : WaitLatched x k pc (call e s).1 := by
  cases e with
  | reset | load | tick => cases he
  | tickTimers => exact ⟨h.wait, h.keyLatch, h.pc⟩
  | keypress j p =>
    show WaitLatched x k pc (keypress j p s)
    rw [keypress_of_latched h.keyLatch]
    exact ⟨h.wait, h.keyLatch, h.pc⟩
  | readDisplay => exact h

/-- So does any list of such calls. -/
theorem waitLatched_callAll {s : State} {x k : Nibble} {pc : Word} {events : List HostOp} (h : WaitLatched x k pc s)
    (hevents : ∀ e ∈ events, isEvent e = true) : WaitLatched x k pc (callAll events s) := by
  induction events generalizing s with
  | nil => exact h
  | cons e rest ih =>
    obtain ⟨he, hrest⟩ := List.forall_mem_cons.1 hevents
    exact ih (waitLatched_call h he) hrest

/-- Settles O48: the press latches its key, the events keep the latch, and the tick resolves the wait with it. -/
theorem firstPressResolvesTheWait : Obligations.FirstPressResolvesTheWait := by
  intro x k s events hw hl hk hevents
  have hlatched := waitLatched_callAll (waitLatched_of_first_press hw hl hk) hevents
  obtain ⟨t, ht, hkey, hrun, -, hpc, -⟩ := (waitTickResolvesOrRepeats x _ hlatched.wait).2 k hlatched.keyLatch
  exact ⟨t, ht, hkey, hrun, by rw [hpc, hlatched.pc]⟩

/-! ## Timer registers (R124 to R126) -/

/-- Settles O49: each is the write of one register or timer with the other. -/
theorem timerRegistersAreMoved : Obligations.TimerRegistersAreMoved :=
  fun x s => ⟨encodeThenDecodeIsIdentity (.ldVxDt x), encodeThenDecodeIsIdentity (.ldDtVx x),
    encodeThenDecodeIsIdentity (.ldStVx x),
    ⟨_, rfl, readV_writeV_self x _ s, writeV_regs x _ s, writeV_frame s x _⟩,
    ⟨_, rfl, rfl, writeDt_frame s _⟩, ⟨_, rfl, rfl, writeSt_frame s _⟩⟩

end Sys2Proof.Machine
end

section
/-! PROOFS. The statements of 60_exceptions.md: the cause of each error of a tick (R130, R132), the timers (R145, R146), key
events (R148) and the display as the host reads it (R151). -/

namespace Sys2Proof.Machine

/-! ## The errors of the Execute step (R71, R73, R107) -/

/-- RET faults only with SP at 0, or with an SP that is no count of live entries (R71, log 5). -/
theorem execRet_fault {s : State} {f : Fault} (h : execRet s = .fault f) :
    (s.sp.toNat = 0 ∧ f = .stackUnderflow) ∨ (16 < s.sp.toNat ∧ f = .stackPointerOutOfRange s.sp) := by
  obtain ⟨hempty, hlive, hpast⟩ := returnPopsIntoPc s
  by_cases h0 : s.sp.toNat = 0
  · cases (hempty h0).symm.trans h
    exact .inl ⟨h0, rfl⟩
  · by_cases h16 : s.sp.toNat ≤ 16
    · obtain ⟨t, ht, -⟩ := hlive (Nat.pos_of_ne_zero h0) h16
      cases ht.symm.trans h
    · cases (hpast (Nat.lt_of_not_le h16)).symm.trans h
      exact .inr ⟨Nat.lt_of_not_le h16, rfl⟩

/-- CALL faults only with SP at 16, or with an SP that is no count of live entries (R73, log 5). -/
theorem execCall_fault {nnn : Addr12} {s : State} {f : Fault} (h : execCall nnn s = .fault f) :
    (s.sp.toNat = 16 ∧ f = .stackOverflow) ∨ (16 < s.sp.toNat ∧ f = .stackPointerOutOfRange s.sp) := by
  rcases Nat.lt_trichotomy s.sp.toNat 16 with hroom | hfull | hpast
  · cases (execCall_of_room hroom nnn).symm.trans h
  · cases (execCall_of_full hfull nnn).symm.trans h
    exact .inl ⟨hfull, rfl⟩
  · cases (execCall_of_past hpast nnn).symm.trans h
    exact .inr ⟨hpast, rfl⟩

/-- The range check faults only for a range that is not empty and passes 4095, with its lowest bad address (R107). -/
theorem withRange_fault {a n : Nat} {t : State} {f : Fault} (h : withRange a n t = .fault f) :
    f = .memoryOutOfRange (max a 4096) ∧ 0 < n ∧ 4096 < a + n := by
  rcases withRange_cases a n t with ⟨-, e⟩ | ⟨hout, e⟩ <;> cases e.symm.trans h
  have hbad : ¬ (n = 0 ∨ a + n ≤ 4096) := by rw [← memSize_eq, ← inMemory_iff, hout]; decide
  exact ⟨rfl, by omega, by omega⟩

/-- What an instruction that faults was, and why it did: one case for each error of the Execute step (R130). -/
theorem exec_fault_cases {i : Instr} {s : State} {f : Fault} (h : exec i s = .fault f) :
    (f = .stackOverflow ∧ s.sp.toNat = 16 ∧ ∃ nnn, i = .call nnn) ∨
    (f = .stackUnderflow ∧ s.sp.toNat = 0 ∧ i = .ret) ∨
    (f = .stackPointerOutOfRange s.sp ∧ 16 < s.sp.toNat) ∨
    (f = .memoryOutOfRange (max s.i.toNat 4096) ∧
      ((∃ x, i = .ldB x ∧ 4096 ≤ s.i.toNat + 2) ∨ (∃ x, i = .ldMemVx x ∧ 4096 ≤ s.i.toNat + x.toNat) ∨
       (∃ x, i = .ldVxMem x ∧ 4096 ≤ s.i.toNat + x.toNat) ∨
       (∃ x y n, i = .drw x y n ∧ 0 < n.toNat ∧ 4096 ≤ s.i.toNat + n.toNat - 1))) := by
  cases i with
  | call nnn =>
    rcases execCall_fault h with ⟨hsp, hf⟩ | ⟨hsp, hf⟩
    · exact .inl ⟨hf, hsp, nnn, rfl⟩
    · exact .inr (.inr (.inl ⟨hf, hsp⟩))
  | ret =>
    rcases execRet_fault h with ⟨hsp, hf⟩ | ⟨hsp, hf⟩
    · exact .inr (.inl ⟨hf, hsp, rfl⟩)
    · exact .inr (.inr (.inl ⟨hf, hsp⟩))
  | ldB x =>
    obtain ⟨hf, -, hend⟩ := withRange_fault h
    exact .inr (.inr (.inr ⟨hf, .inl ⟨x, rfl, Nat.le_of_lt_succ hend⟩⟩))
  | ldMemVx x =>
    obtain ⟨hf, -, hend⟩ := withRange_fault h
    exact .inr (.inr (.inr ⟨hf, .inr (.inl ⟨x, rfl, Nat.le_of_lt_succ hend⟩)⟩))
  | ldVxMem x =>
    obtain ⟨hf, -, hend⟩ := withRange_fault h
    exact .inr (.inr (.inr ⟨hf, .inr (.inr (.inl ⟨x, rfl, Nat.le_of_lt_succ hend⟩))⟩))
  | drw x y n =>
    obtain ⟨hf, hn, hend⟩ := withRange_fault h
    exact .inr (.inr (.inr ⟨hf, .inr (.inr (.inr ⟨x, y, n, rfl, hn, Nat.le_sub_one_of_lt hend⟩))⟩))
  | _ => cases h

/-! ## The errors of a tick (R130, R132) -/

/-- A fetch that answers nothing found pc at 4095 or above (R61). -/
theorem le_pc_of_fetch_none {s : State} (h : fetch s = none) : 4095 ≤ s.pc.toNat := by
  by_contra hpc
  cases (fetch_of_pc_le (u := s) (by omega)).symm.trans h

/-- A word the decoder rejects is no legal word (R53). -/
theorem legalWord_of_decode_error {op : Word} {q : Reject} (h : decode op = .error q) : legalWord op = false := by
  rw [← Bool.not_eq_true, ← decode_ok_iff_legalWord, h]
  exact nofun

/-- The word a decoded instruction was fetched as is its own (R50). -/
theorem fetch_eq_encode {s : State} {op : Word} {i : Instr} (hf : fetch s = some op) (hd : decode op = .ok i) :
    fetch s = some (encode i) := by
  rw [hf, decodedWordIsTheEncoding op i hd]

/-- Settles O11: the fetch fails, the decoder rejects the word, or the instruction of the fetched word faults; an SP above
16 is what the invariant excludes. -/
theorem tickErrorsHaveTheirCause : Obligations.TickErrorsHaveTheirCause := by
  intro s f hinv ht
  rcases tick_cases s with ⟨x, -, e⟩ | ⟨hw, hf, e⟩ | ⟨op, q, hw, hf, hd, e⟩ | ⟨op, i, hw, hf, hd, e⟩ <;> rw [e] at ht
  · cases ht
  · cases ht
    exact ⟨hw, rfl, le_pc_of_fetch_none hf⟩
  · cases ht
    exact ⟨hw, hf, legalWord_of_decode_error hd⟩
  · have hword := fetch_eq_encode hf hd
    refine ⟨hw, ?_⟩
    rcases exec_fault_cases ht with ⟨rfl, hsp, nnn, rfl⟩ | ⟨rfl, hsp, rfl⟩ | ⟨-, hsp⟩ | ⟨rfl, hcause⟩
    · exact ⟨hsp, nnn, hword⟩
    · exact ⟨hsp, hword⟩
    · obtain ⟨-, hle, -⟩ := hinv
      exact absurd hle (Nat.not_le_of_lt hsp)
    · refine ⟨rfl, ?_⟩
      rcases hcause with ⟨x, rfl, hend⟩ | ⟨x, rfl, hend⟩ | ⟨x, rfl, hend⟩ | ⟨x, y, n, rfl, hn, hend⟩
      · exact .inl ⟨x, hword, hend⟩
      · exact .inr (.inl ⟨x, hword, hend⟩)
      · exact .inr (.inr (.inl ⟨x, hword, hend⟩))
      · exact .inr (.inr (.inr ⟨x, y, n, hword, hn, hend⟩))

/-! ## The display as the host reads it (R151) -/

/-- The bitmap is the rows of the display one after the other, the library's flattening of it. -/
theorem readDisplay_eq (s : State) : readDisplay s = s.disp.flatten.toList := by
  simp only [readDisplay, Vector.flatten, Vector.toList_mk, Array.toList_flatten, Array.toList_map, List.map_map]
  rfl

/-- Settles O43: of the 32 rows of 64 cells, index 64*y + x is row y, column x. -/
theorem readDisplayListsRowByRow : Obligations.ReadDisplayListsRowByRow := by
  intro s
  refine ⟨by rw [readDisplay_eq, Vector.length_toList], fun x y hx hy => ?_⟩
  have hrow : (64 * y + x) / 64 = y := by omega
  have hcol : (64 * y + x) % 64 = x := by omega
  rw [readDisplay_eq, Vector.getElem?_toList, Vector.getElem?_flatten, dif_pos (by omega)]
  simp only [cell, hrow, hcol, Nat.mod_eq_of_lt hx, Nat.mod_eq_of_lt hy]

/-! ## Timers (R145, R146) -/

/-- A timer counts down to 0 and stays there: one less in the naturals, where 0 - 1 is 0 (R145). -/
theorem countdown_toNat (b : Byte) : (if b = 0 then 0 else b - 1).toNat = b.toNat - 1 := by
  split <;> bv_omega

@[simp] theorem tickTimers_dt_toNat (s : State) : (tickTimers s).dt.toNat = s.dt.toNat - 1 :=
  countdown_toNat s.dt

@[simp] theorem tickTimers_st_toNat (s : State) : (tickTimers s).st.toNat = s.st.toNat - 1 :=
  countdown_toNat s.st

/-- The timers are all that a timer call changes (R145). -/
theorem tickTimers_frame (s : State) : KeepsAllBut [.dt, .st] s (tickTimers s) := by
  rw [keepsAllBut_iff]; simp [SamePart, tickTimers]

/-- Settles O50: both timers count down, from zero to zero. -/
theorem timerTickDecrementsNonzeroTimers : Obligations.TimerTickDecrementsNonzeroTimers := by
  intro s
  rw [tickTimers_dt_toNat, tickTimers_st_toNat]
  exact ⟨fun _ => rfl, fun h => by rw [h], fun _ => rfl, fun h => by rw [h], tickTimers_frame s⟩

/-- After `n` timer calls each timer is `n` less, down to 0, by induction on the calls (R146). -/
theorem tickTimers_iterate_toNat (n : Nat) (s : State) :
    (tickTimers^[n] s).dt.toNat = s.dt.toNat - n ∧ (tickTimers^[n] s).st.toNat = s.st.toNat - n := by
  induction n with
  | zero => exact ⟨rfl, rfl⟩
  | succ n ih =>
    obtain ⟨hdt, hst⟩ := ih
    rw [Function.iterate_succ_apply', tickTimers_dt_toNat, tickTimers_st_toNat, hdt, hst]
    exact ⟨rfl, rfl⟩

/-- Settles O51: what is taken off in the naturals is at most the timer's value. -/
theorem timersFallByMinOfValueAndCalls : Obligations.TimersFallByMinOfValueAndCalls := by
  intro n s
  rw [tsub_min, tsub_min]
  exact tickTimers_iterate_toNat n s

/-! ## Key events (R148) -/

/-- A key event records the state of its key and of no other. -/
@[simp] theorem keyPressed_keypress (j k : Nibble) (p : Bool) (s : State) :
    keyPressed j (keypress k p s) = if j = k then p else keyPressed j s := by
  rcases keypress_eq k p s with e | ⟨-, e⟩ <;> rw [e] <;> exact keyPressed_writeKey j k p s

/-- Keys and latch are all that a key event changes. -/
theorem keypress_frame (k : Nibble) (p : Bool) (s : State) : KeepsAllBut [.keys, .keyLatch] s (keypress k p s) := by
  rw [keepsAllBut_iff]
  rcases keypress_eq k p s with e | ⟨-, e⟩ <;> rw [e] <;> simp [SamePart]

/-- An event that is no 0-to-1 transition of a wait with an empty latch is recorded only. -/
theorem keypress_of_no_first_press {k : Nibble} {p : Bool} {s : State}
    (h : s.wait = .running ∨ s.keyLatch ≠ none ∨ p = false ∨ keyPressed k s = true) :
    keypress k p s = writeKey k p s := by
  rcases h with h | h | h | h
  · simp [keypress, isWaiting, h]
  · obtain ⟨l, hl⟩ := Option.ne_none_iff_exists'.1 h
    exact keypress_of_latched hl k p
  · simp [keypress, h]
  · simp [keypress, h]

/-- Settles O47: the first 0-to-1 transition of a wait is latched, any other event recorded only. -/
theorem keypressRecordsAndLatches : Obligations.KeypressRecordsAndLatches := by
  intro k p s
  refine ⟨fun j => keyPressed_keypress j k p s, keypress_frame k p s, ?_, fun h => ?_⟩
  · rintro ⟨x, hw⟩ hl rfl hk
    rw [keypress_of_first_press hw hl hk]
    rfl
  · rw [keypress_of_no_first_press h]
    rfl

end Sys2Proof.Machine
end

section
/-! PROOFS. The statements of 70_reset_and_hazards.md: the host's load at launch (R163 to R166) and the end of a run at a
jump to itself (R174). -/

namespace Sys2Proof.Machine

/-! ## Load (R163 to R166) -/

/-- An image that fits is stored at 0x200 (R163). -/
theorem load_of_fits {img : List Byte} (h : img.length ≤ 3584) (s : State) :
    load img s = .next (writeBytes 0x200 img s) :=
  if_neg (Nat.not_lt_of_le h)

/-- An image that does not fit is not loaded at all (R164). -/
theorem load_of_too_large {img : List Byte} (h : 3584 < img.length) (s : State) :
    load img s = .fault (.imageTooLarge img.length) :=
  if_pos h

/-- Settles O54: the load is the store of an image that fits, and the state after a reset is its own reset state. -/
theorem loadCopiesTheImage : Obligations.LoadCopiesTheImage := by
  intro img s
  refine ⟨fun hfit => ⟨_, load_of_fits hfit s, fun j hj => ?_, writeBytes_outside s _ img, writeBytes_frame s _ img⟩,
    fun hlong => load_of_too_large hlong s, serve_load_of_launch rfl img, fun hlate => serve_load_of_late hlate img⟩
  rw [readByte_writeBytes_getElem hj, List.getElem?_eq_getElem hj]

/-! ## A jump to itself (R174) -/

/-- The word of a jump to an address below 4096, from the sum R174 writes. -/
theorem jump_word_eq_encode {pc : Word} (h : pc.toNat < 4096) : 0x1000 + pc = encode (.jp (pc.setWidth 12)) := by
  have hfit : 4096 + pc.toNat < 65536 := by omega
  apply BitVec.eq_of_toNat_eq
  rw [encode, wordNNN_toNat, BitVec.toNat_add, BitVec.toNat_setWidth, Nat.mod_eq_of_lt (b := 2 ^ 12) h]
  exact Nat.mod_eq_of_lt hfit

/-- The address field of a word below 4096 is the word. -/
theorem addrImm_setWidth {w : Word} (h : w.toNat < 4096) : addrImm (w.setWidth 12) = w := by
  apply BitVec.eq_of_toNat_eq
  rw [addrImm_toNat, BitVec.toNat_setWidth, Nat.mod_eq_of_lt h]

/-- A jump back to where the instruction stands takes the advance of pc back. -/
theorem jump_advance_self (s : State) : jump s.pc (advance s) = s := rfl

/-- Where the run has ended a tick is the jump to pc, which takes the advance back (R174). -/
theorem tick_of_endedNormally {s : State} (h : EndedNormally s) : tick s = .next s := by
  obtain ⟨hw, hpc, hf⟩ := h
  have haddr : s.pc.toNat < 4096 := by omega
  rw [jump_word_eq_encode haddr] at hf
  calc tick s = exec (.jp (s.pc.setWidth 12)) (advance s) := tick_of_decode_ok hw hf (encodeThenDecodeIsIdentity _)
    _ = .next (jump (addrImm (s.pc.setWidth 12)) (advance s)) := rfl
    _ = .next s := by rw [addrImm_setWidth haddr, jump_advance_self]

/-- Settles O57: a named draw leaves sub-state, pc and memory as they are, so the run has ended with it too. -/
theorem jumpToItselfEndsTheRun : Obligations.JumpToItselfEndsTheRun :=
  fun s r (h : EndedNormally s) => tick_of_endedNormally (s := withDraw r s) h

end Sys2Proof.Machine
end
